-- ==== Sys2Proof/Word.lean ====
section
/-! DEFINITION. The value types of the block (00_scope.md R6, R7, R8): a byte, a 16-bit word, a nibble, a 12-bit
address field and a register index. Every value is unsigned; bit 0 is the least significant bit. -/

namespace Sys2Proof

/-- One cell of memory, one general register, one timer (R6: CELL_WIDTH, REG_WIDTH, TIMER_WIDTH are 8). -/
abbrev Byte := BitVec 8

/-- An instruction word, the index register, the program counter, a stack entry (R6: 16 bits). -/
abbrev Word := BitVec 16

/-- The 4-bit field of an instruction word (R71). -/
abbrev Nibble := BitVec 4

/-- The 12-bit address field `nnn` of an instruction word (R71). -/
abbrev Addr := BitVec 12

/-- A general register's index: V0 to VF (R6: NREGS is 16). -/
abbrev Reg := Fin 16

/-- A key's index, 0x0 to 0xF (R6: NKEYS is 16). -/
abbrev Key := Fin 16

/-- VF, the general register that is also the flag register (R6: FLAG_REG is index 15; R22). -/
abbrev VF : Reg := 15

end Sys2Proof
end

