-- ==== Sys2Proof/Config.lean ====
section
/-! DEFINITION. The parameters of the block (00_scope.md R6): the values the spec fixes, as constants; the two
parameters a run fixes once (FONT_DATA, FONT_STORE_POLICY), as a record that State carries unchanged; and the free
stream RND, as an opaque constant. -/

namespace Sys2Proof

/-- FONT_STORE_POLICY (R54, C1, D12): what an instruction's store into 0x000–0x04F does. -/
inductive FontStorePolicy where
  /-- The store goes through (the default of R6). -/
  | writeThrough
  /-- The instruction raises the model-only fault FontRegionWrite and stores nothing. -/
  | fault
deriving DecidableEq, Repr, Inhabited

/-- The parameters a run fixes once. They are no state of the machine (R20); State carries them as plain data so that
`exec` and `step`, whose forms are fixed, can read them, and so that a statement about every state is a statement about
every font and both policies (log 2, log 3). -/
structure Config where
  /-- FONT_DATA (R58, D11): the 80 bytes reset copies to 0x000–0x04F; glyph d is bytes 5·d to 5·d + 4 (R57). -/
  fontData : Vector Byte 80
  /-- FONT_STORE_POLICY (R54). -/
  fontStorePolicy : FontStorePolicy
deriving DecidableEq, Repr, Inhabited

/-- MEM_SIZE (R6, R50): 4096 cells, so a 12-bit mask is a remainder by this. -/
abbrev Config.memSize : Nat := 4096

/-- The first cell past the font region 0x000–0x04F (R52). -/
abbrev Config.fontEnd : Nat := 0x050

/-- PROGRAM_BASE (R6): the program area starts here. -/
abbrev Config.programBase : Nat := 0x200

/-- PROGRAM_MAX_LEN (R6, R62): the program area holds 0x200 to 0xFFF. -/
abbrev Config.programMaxLen : Nat := 3584

/-- STACK_DEPTH (R6, R27). -/
abbrev Config.stackDepth : Nat := 16

/-- RND (R6, R131, R214, D14): the stream of 8-bit draws, one per executed Cxnn. A free value: it has no body, so no
proof can lean on what a draw is (log 4). -/
opaque Config.rnd : Nat → Byte

end Sys2Proof
end

