-- ==== Sys2Proof/Syntax.lean ====
section
/-! DEFINITION. The 34 instructions of opcode_table.json (30_encoding.md R74), one constructor per row, in the table's
order. The operands are the fields of R71. A field the decoder extracts and the instruction ignores (R76) stays an
operand here, so that no bit of a word is lost between decoding and encoding (log 13). -/

namespace Sys2Proof

/-- An instruction with its fields. -/
inductive Instr where
  /-- 00E0 CLS; `x` is ignored (R150). -/
  | cls (x : Reg)
  /-- 00EE RET; `x` is ignored (R100). -/
  | ret (x : Reg)
  /-- 1nnn JP nnn (R101). -/
  | jp (nnn : Addr)
  /-- 2nnn CALL nnn (R102). -/
  | call (nnn : Addr)
  /-- 3xnn SE Vx, nn (R103). -/
  | seImm (x : Reg) (nn : Byte)
  /-- 4xnn SNE Vx, nn (R104). -/
  | sneImm (x : Reg) (nn : Byte)
  /-- 5xy0 SE Vx, Vy; `n` is ignored (R105). -/
  | seReg (x y : Reg) (n : Nibble)
  /-- 6xnn LD Vx, nn (R120). -/
  | ldImm (x : Reg) (nn : Byte)
  /-- 7xnn ADD Vx, nn (R121). -/
  | addImm (x : Reg) (nn : Byte)
  /-- 8xy0 LD Vx, Vy (R122). -/
  | ldReg (x y : Reg)
  /-- 8xy1 OR Vx, Vy (R123). -/
  | orReg (x y : Reg)
  /-- 8xy2 AND Vx, Vy (R124). -/
  | andReg (x y : Reg)
  /-- 8xy3 XOR Vx, Vy (R125). -/
  | xorReg (x y : Reg)
  /-- 8xy4 ADD Vx, Vy (R126). -/
  | addReg (x y : Reg)
  /-- 8xy5 SUB Vx, Vy (R127). -/
  | sub (x y : Reg)
  /-- 8xy6 SHR Vx; `y` is ignored (R128). -/
  | shr (x y : Reg)
  /-- 8xy7 SUBN Vx, Vy (R129). -/
  | subn (x y : Reg)
  /-- 8xyE SHL Vx; `y` is ignored (R130). -/
  | shl (x y : Reg)
  /-- 9xy0 SNE Vx, Vy; `n` is ignored (R106). -/
  | sneReg (x y : Reg) (n : Nibble)
  /-- Annn LD I, nnn (R140). -/
  | ldI (nnn : Addr)
  /-- Bnnn JP V0, nnn (R107). -/
  | jpV0 (nnn : Addr)
  /-- Cxnn RND Vx, nn (R131). -/
  | rnd (x : Reg) (nn : Byte)
  /-- Dxyn DRW Vx, Vy, n (R151). -/
  | drw (x y : Reg) (n : Nibble)
  /-- Ex9E SKP Vx (R160). -/
  | skp (x : Reg)
  /-- ExA1 SKNP Vx (R161). -/
  | sknp (x : Reg)
  /-- Fx07 LD Vx, DT (R162). -/
  | ldVxDt (x : Reg)
  /-- Fx0A LD Vx, K (R163). -/
  | ldVxK (x : Reg)
  /-- Fx15 LD DT, Vx (R164). -/
  | ldDtVx (x : Reg)
  /-- Fx18 LD ST, Vx (R165). -/
  | ldStVx (x : Reg)
  /-- Fx1E ADD I, Vx (R141). -/
  | addI (x : Reg)
  /-- Fx29 LD F, Vx (R142). -/
  | ldF (x : Reg)
  /-- Fx33 LD B, Vx (R143). -/
  | ldB (x : Reg)
  /-- Fx55 LD [I], Vx (R144). -/
  | ldMemFromRegs (x : Reg)
  /-- Fx65 LD Vx, [I] (R145). -/
  | ldRegsFromMem (x : Reg)
deriving DecidableEq, Repr

end Sys2Proof
end

