-- ==== Sys2Proof/WellFormed.lean ====
section
/-! DEFINITION. What is well formed. The operand types of Instr are exact (a register index is a Fin 16, an address
field a BitVec 12), so every term of Instr is a supported instruction and no term can be ill-typed; what CAN fail a
check is a raw word, which may be unsupported (30_encoding.md R75), and a spelling, which may be one of the aliases of
R76 instead of the canonical one an assembler emits (R78). -/

namespace Sys2Proof

/-- The words that some instruction of R74 stands for: the complement of the four rows of R75. A check on the raw
word, written from R75's table and not from the decoder. -/
def wordSupported (w : Word) : Bool :=
  let nn := (w &&& 0x00FF).toNat
  let n := (w &&& 0x000F).toNat
  match (w >>> 12).toNat with
  | 0x0 => nn == 0xE0 || nn == 0xEE
  | 0x8 => !(n == 0x8 || n == 0x9 || n == 0xA || n == 0xB || n == 0xC || n == 0xD || n == 0xF)
  | 0xE => nn == 0x9E || nn == 0xA1
  | 0xF => nn == 0x07 || nn == 0x0A || nn == 0x15 || nn == 0x18 || nn == 0x1E || nn == 0x29 || nn == 0x33 || nn == 0x55
      || nn == 0x65
  | _ => true

/-- The canonical spelling (R76, R78): the ignored field of the seven instructions that have one is 0. An instruction
that is not canonical is an alias: it decodes, runs and encodes like any other. -/
def Instr.canonical : Instr → Bool
  | .cls x => x == 0
  | .ret x => x == 0
  | .seReg _ _ n => n == 0
  | .sneReg _ _ n => n == 0
  | .shr _ y => y == 0
  | .shl _ y => y == 0
  | .jp _ => true
  | .call _ => true
  | .seImm _ _ => true
  | .sneImm _ _ => true
  | .ldImm _ _ => true
  | .addImm _ _ => true
  | .ldReg _ _ => true
  | .orReg _ _ => true
  | .andReg _ _ => true
  | .xorReg _ _ => true
  | .addReg _ _ => true
  | .sub _ _ => true
  | .subn _ _ => true
  | .ldI _ => true
  | .jpV0 _ => true
  | .rnd _ _ => true
  | .drw _ _ _ => true
  | .skp _ => true
  | .sknp _ => true
  | .ldVxDt _ => true
  | .ldVxK _ => true
  | .ldDtVx _ => true
  | .ldStVx _ => true
  | .addI _ => true
  | .ldF _ => true
  | .ldB _ => true
  | .ldMemFromRegs _ => true
  | .ldRegsFromMem _ => true

end Sys2Proof
end

