-- ==== Sys2Proof/Decode.lean ====
section
/-! DEFINITION. Decoding and encoding (30_encoding.md R70 to R77): the fields of a word, the dispatch on them, the same
encodings the other way round, and the byte order in which a word lies in memory (20_memory.md R59). -/

namespace Sys2Proof

/-! ## Fields (R71) -/

/-- The group `g = w[15:12]`. -/
def fieldG (w : Word) : Nibble := w.extractLsb' 12 4

/-- The register index `x = w[11:8]`. -/
def fieldX (w : Word) : Reg := (w.extractLsb' 8 4).toFin

/-- The register index `y = w[7:4]`. -/
def fieldY (w : Word) : Reg := (w.extractLsb' 4 4).toFin

/-- The nibble `n = w[3:0]`. -/
def fieldN (w : Word) : Nibble := w.extractLsb' 0 4

/-- The byte `nn = w[7:0]`. -/
def fieldNN (w : Word) : Byte := w.extractLsb' 0 8

/-- The address `nnn = w[11:0]`. -/
def fieldNNN (w : Word) : Addr := w.extractLsb' 0 12

/-! ## Decoding -/

/-- Why a decoder gives no instruction. -/
inductive DecodeError where
  /-- The word has no handler (R75). -/
  | unsupportedOpcode
  /-- Fewer than two bytes are left (R70: every instruction is two). -/
  | truncated
deriving DecidableEq, Repr

/-- Group 0, dispatched on `nn` (R73, R74). -/
def decodeGroup0 (w : Word) : Except DecodeError Instr :=
  match (fieldNN w).toNat with
  | 0xE0 => .ok (.cls (fieldX w))
  | 0xEE => .ok (.ret (fieldX w))
  | _ => .error .unsupportedOpcode

/-- Group 8, dispatched on `n` (R73, R74). -/
def decodeGroup8 (w : Word) : Except DecodeError Instr :=
  match (fieldN w).toNat with
  | 0x0 => .ok (.ldReg (fieldX w) (fieldY w))
  | 0x1 => .ok (.orReg (fieldX w) (fieldY w))
  | 0x2 => .ok (.andReg (fieldX w) (fieldY w))
  | 0x3 => .ok (.xorReg (fieldX w) (fieldY w))
  | 0x4 => .ok (.addReg (fieldX w) (fieldY w))
  | 0x5 => .ok (.sub (fieldX w) (fieldY w))
  | 0x6 => .ok (.shr (fieldX w) (fieldY w))
  | 0x7 => .ok (.subn (fieldX w) (fieldY w))
  | 0xE => .ok (.shl (fieldX w) (fieldY w))
  | _ => .error .unsupportedOpcode

/-- Group E, dispatched on `nn` (R73, R74). -/
def decodeGroupE (w : Word) : Except DecodeError Instr :=
  match (fieldNN w).toNat with
  | 0x9E => .ok (.skp (fieldX w))
  | 0xA1 => .ok (.sknp (fieldX w))
  | _ => .error .unsupportedOpcode

/-- Group F, dispatched on `nn` (R73, R74). -/
def decodeGroupF (w : Word) : Except DecodeError Instr :=
  match (fieldNN w).toNat with
  | 0x07 => .ok (.ldVxDt (fieldX w))
  | 0x0A => .ok (.ldVxK (fieldX w))
  | 0x15 => .ok (.ldDtVx (fieldX w))
  | 0x18 => .ok (.ldStVx (fieldX w))
  | 0x1E => .ok (.addI (fieldX w))
  | 0x29 => .ok (.ldF (fieldX w))
  | 0x33 => .ok (.ldB (fieldX w))
  | 0x55 => .ok (.ldMemFromRegs (fieldX w))
  | 0x65 => .ok (.ldRegsFromMem (fieldX w))
  | _ => .error .unsupportedOpcode

/-- The decoder (R74): the primary group selects the handler; groups 0, 8, E and F are dispatched further. It is total
and reads the word alone (R77). -/
def decodeWord (w : Word) : Except DecodeError Instr :=
  match (fieldG w).toNat with
  | 0x0 => decodeGroup0 w
  | 0x1 => .ok (.jp (fieldNNN w))
  | 0x2 => .ok (.call (fieldNNN w))
  | 0x3 => .ok (.seImm (fieldX w) (fieldNN w))
  | 0x4 => .ok (.sneImm (fieldX w) (fieldNN w))
  | 0x5 => .ok (.seReg (fieldX w) (fieldY w) (fieldN w))
  | 0x6 => .ok (.ldImm (fieldX w) (fieldNN w))
  | 0x7 => .ok (.addImm (fieldX w) (fieldNN w))
  | 0x8 => decodeGroup8 w
  | 0x9 => .ok (.sneReg (fieldX w) (fieldY w) (fieldN w))
  | 0xA => .ok (.ldI (fieldNNN w))
  | 0xB => .ok (.jpV0 (fieldNNN w))
  | 0xC => .ok (.rnd (fieldX w) (fieldNN w))
  | 0xD => .ok (.drw (fieldX w) (fieldY w) (fieldN w))
  | 0xE => decodeGroupE w
  | _ => decodeGroupF w

/-! ## Byte order (R59) -/

/-- The word whose high byte lies at the even address and whose low byte lies after it. -/
def wordOfBytes (hi lo : Byte) : Word := hi ++ lo

/-- Bits 15:8, the byte at the even address. -/
def highByte (w : Word) : Byte := w.extractLsb' 8 8

/-- Bits 7:0, the byte after it. -/
def lowByte (w : Word) : Byte := w.extractLsb' 0 8

/-- Decode the instruction at the head of a list of bytes and give the bytes after it (R70: always two). -/
def decodeBytes : List Byte → Except DecodeError (Instr × List Byte)
  | hi :: lo :: rest =>
    match decodeWord (wordOfBytes hi lo) with
    | .ok i => .ok (i, rest)
    | .error e => .error e
  | _ => .error .truncated

/-! ## Encoding -/

/-- A register index as its 4-bit field. -/
def regBits (x : Reg) : Nibble := BitVec.ofFin x

/-- Format N12 (R72): `gggg nnnn nnnn nnnn`. -/
def packN12 (g : Nibble) (nnn : Addr) : Word := g ++ nnn

/-- Formats XNN and XSUB (R72): `gggg xxxx nnnn nnnn`. -/
def packXNN (g : Nibble) (x : Reg) (nn : Byte) : Word := g ++ regBits x ++ nn

/-- Format XYN (R72): `gggg xxxx yyyy nnnn`. -/
def packXYN (g : Nibble) (x y : Reg) (n : Nibble) : Word := g ++ regBits x ++ regBits y ++ n

/-- The word of an instruction, from the encodings of opcode_table.json. -/
def encode : Instr → Word
  | .cls x => packXNN 0x0 x 0xE0
  | .ret x => packXNN 0x0 x 0xEE
  | .jp nnn => packN12 0x1 nnn
  | .call nnn => packN12 0x2 nnn
  | .seImm x nn => packXNN 0x3 x nn
  | .sneImm x nn => packXNN 0x4 x nn
  | .seReg x y n => packXYN 0x5 x y n
  | .ldImm x nn => packXNN 0x6 x nn
  | .addImm x nn => packXNN 0x7 x nn
  | .ldReg x y => packXYN 0x8 x y 0x0
  | .orReg x y => packXYN 0x8 x y 0x1
  | .andReg x y => packXYN 0x8 x y 0x2
  | .xorReg x y => packXYN 0x8 x y 0x3
  | .addReg x y => packXYN 0x8 x y 0x4
  | .sub x y => packXYN 0x8 x y 0x5
  | .shr x y => packXYN 0x8 x y 0x6
  | .subn x y => packXYN 0x8 x y 0x7
  | .shl x y => packXYN 0x8 x y 0xE
  | .sneReg x y n => packXYN 0x9 x y n
  | .ldI nnn => packN12 0xA nnn
  | .jpV0 nnn => packN12 0xB nnn
  | .rnd x nn => packXNN 0xC x nn
  | .drw x y n => packXYN 0xD x y n
  | .skp x => packXNN 0xE x 0x9E
  | .sknp x => packXNN 0xE x 0xA1
  | .ldVxDt x => packXNN 0xF x 0x07
  | .ldVxK x => packXNN 0xF x 0x0A
  | .ldDtVx x => packXNN 0xF x 0x15
  | .ldStVx x => packXNN 0xF x 0x18
  | .addI x => packXNN 0xF x 0x1E
  | .ldF x => packXNN 0xF x 0x29
  | .ldB x => packXNN 0xF x 0x33
  | .ldMemFromRegs x => packXNN 0xF x 0x55
  | .ldRegsFromMem x => packXNN 0xF x 0x65

/-- An instruction's two bytes as memory holds them, the high one first. -/
def encodeBytes (i : Instr) : List Byte := [highByte (encode i), lowByte (encode i)]

/-! ## The opcode table's numbering -/

/-- The row of opcode_table.json an instruction stands for, as (match, mask): its words are those `w` with
`w &&& mask = match`. -/
def Instr.tableRow : Instr → Word × Word
  | .cls _ => (0x00E0, 0xF0FF)
  | .ret _ => (0x00EE, 0xF0FF)
  | .jp _ => (0x1000, 0xF000)
  | .call _ => (0x2000, 0xF000)
  | .seImm _ _ => (0x3000, 0xF000)
  | .sneImm _ _ => (0x4000, 0xF000)
  | .seReg _ _ _ => (0x5000, 0xF000)
  | .ldImm _ _ => (0x6000, 0xF000)
  | .addImm _ _ => (0x7000, 0xF000)
  | .ldReg _ _ => (0x8000, 0xF00F)
  | .orReg _ _ => (0x8001, 0xF00F)
  | .andReg _ _ => (0x8002, 0xF00F)
  | .xorReg _ _ => (0x8003, 0xF00F)
  | .addReg _ _ => (0x8004, 0xF00F)
  | .sub _ _ => (0x8005, 0xF00F)
  | .shr _ _ => (0x8006, 0xF00F)
  | .subn _ _ => (0x8007, 0xF00F)
  | .shl _ _ => (0x800E, 0xF00F)
  | .sneReg _ _ _ => (0x9000, 0xF000)
  | .ldI _ => (0xA000, 0xF000)
  | .jpV0 _ => (0xB000, 0xF000)
  | .rnd _ _ => (0xC000, 0xF000)
  | .drw _ _ _ => (0xD000, 0xF000)
  | .skp _ => (0xE09E, 0xF0FF)
  | .sknp _ => (0xE0A1, 0xF0FF)
  | .ldVxDt _ => (0xF007, 0xF0FF)
  | .ldVxK _ => (0xF00A, 0xF0FF)
  | .ldDtVx _ => (0xF015, 0xF0FF)
  | .ldStVx _ => (0xF018, 0xF0FF)
  | .addI _ => (0xF01E, 0xF0FF)
  | .ldF _ => (0xF029, 0xF0FF)
  | .ldB _ => (0xF033, 0xF0FF)
  | .ldMemFromRegs _ => (0xF055, 0xF0FF)
  | .ldRegsFromMem _ => (0xF065, 0xF0FF)

/-- The two bytes, in memory order, of a table word: its low `nbits` bits, every bit above them 0. -/
def bytesOfTableWord (nbits w : Nat) : List Byte :=
  let word : Word := BitVec.ofNat 16 (w % 2 ^ nbits)
  [highByte word, lowByte word]

/-- The instruction the decoder reads from an instruction whose bits are `w`, numbered as opcode_table.json numbers
them (bit 0 least significant; every row is one 16-bit word). -/
def decodeTableWord (nbits w : Nat) : Option Instr :=
  match decodeBytes (bytesOfTableWord nbits w) with
  | .ok (i, _) => some i
  | .error _ => none

end Sys2Proof
end

