-- ==== Sys2Proof/Machine/ResetValues.lean ====
section
/-! DEFINITION. The reset values that are not zero (10_state.md R40) and the parameters the machine is built with when
none are named (00_scope.md R6). -/

namespace Sys2Proof.Machine

/-- RESET_PC (R6, R40). -/
def resetPc : Word := 0x200

/-- `sp` of an empty stack (R28, R40). -/
def resetSp : Int := -1

/-- The reference font, glyphs 0 to 7 (R58's table). -/
def fontReferenceLow : List Byte :=
  [0xF0, 0x90, 0x90, 0x90, 0xF0] ++ [0x20, 0x60, 0x20, 0x20, 0x70] ++
  [0xF0, 0x10, 0xF0, 0x80, 0xF0] ++ [0xF0, 0x10, 0xF0, 0x10, 0xF0] ++
  [0x90, 0x90, 0xF0, 0x10, 0x10] ++ [0xF0, 0x80, 0xF0, 0x10, 0xF0] ++
  [0xF0, 0x80, 0xF0, 0x90, 0xF0] ++ [0xF0, 0x10, 0x20, 0x40, 0x40]

/-- The reference font, glyphs 8 to F (R58's table). -/
def fontReferenceHigh : List Byte :=
  [0xF0, 0x90, 0xF0, 0x90, 0xF0] ++ [0xF0, 0x90, 0xF0, 0x10, 0xF0] ++
  [0xF0, 0x90, 0xF0, 0x90, 0x90] ++ [0xE0, 0x90, 0xE0, 0x90, 0xE0] ++
  [0xF0, 0x80, 0x80, 0x80, 0xF0] ++ [0xE0, 0x90, 0x90, 0x90, 0xE0] ++
  [0xF0, 0x80, 0xF0, 0x80, 0xF0] ++ [0xF0, 0x80, 0xF0, 0x80, 0x80]

/-- The reference font of R58 as FONT_DATA. PRESUMED: the spec gives these bytes for reference only, from general
knowledge; FONT_DATA itself is an open parameter (log 2). -/
def fontReference : Vector Byte 80 := ⟨(fontReferenceLow ++ fontReferenceHigh).toArray, by rfl⟩

/-- The parameters of the reset machine: the reference font (PRESUMED, log 2) and the default FONT_STORE_POLICY of R6
(DESIGN CHOICE, log 3). -/
def defaultConfig : Config := { fontData := fontReference, fontStorePolicy := .writeThrough }

end Sys2Proof.Machine
end

