-- ==== Sys2Proof/Machine/State.lean ====
section
/-! DEFINITION. The state of the block (10_state.md R20), the fault kinds (60_exceptions.md R200), the refusals, and
the state after reset (R40). -/

namespace Sys2Proof.Machine

/-- The fault kinds of R200. A cycle that raises one answers a next state whose `fault` element holds it (R202); a
`step` of a machine whose `fault` element already holds one is not admitted (R203) and stops with that kind, which is
the only way `step` answers a fault (log 1). SAFE for every kind: the machine stops where a driver might go on (D5). -/
inductive Fault where
  /-- Code 1. Raised by `load` of too many bytes (R64); returned by `write_opcode` below 0x200 (R56), which does not set
  the `fault` element (C18). Safe. -/
  | addressOutOfRange
  /-- Code 2. Raised at step 5 by an odd pc (R84); returned by `read_opcode` and `write_opcode` at an odd masked address
  (R55, R56), which do not set the `fault` element (C18). Safe. -/
  | addressValueIsNotEven
  /-- Code 3. Raised at step 1 by a pc at or above 0x1000 (R81). Safe. -/
  | programCounterOutOfRange
  /-- Code 4. Raised at step 2 by an `sp` outside −1..15 (R81), by 2nnn on a full stack (R102) and by 00EE on an empty
  one (R100). Safe. -/
  | stackPointerOutOfRange
  /-- Code 5. Raised at step 8 by a word with no handler (R75). Safe. -/
  | unsupportedOpcode
  /-- Code 6, model only. Raised by Fx33 and Fx55 when a target lies in 0x000–0x04F and FONT_STORE_POLICY is `fault`
  (R143, R144). Safe. -/
  | fontRegionWrite
deriving DecidableEq, Repr, Inhabited

/-- Why an instruction has no meaning. Every instruction of the table has one, so no step of this model refuses. -/
inductive Refusal where
  /-- Raised by an arm of `exec` whose instruction has no meaning yet; there is none. Safe. -/
  | notModelled (mnemonic : String)
deriving DecidableEq, Repr, Inhabited

/-- Memory as a list of (address, byte) cells in canonical form: addresses strictly rising and no cell equal to its reset
contents, which is what an unlisted address reads as (`Memory.background`, `Memory.wf`). -/
abbrev Memory := List Host.Cell

/-- The frame buffer `fb[row][col]`: 32 rows of 64 pixels, `true` for 1 (R32). -/
abbrev FrameBuffer := Vector (Vector Bool 64) 32

/-- The state of the block (R20). -/
structure State where
  /-- `memory`, 4096 cells of 8 bits (R50). -/
  mem : Memory
  /-- `V[0..15]` (R21); `V[15]` is VF (R22). -/
  v : Vector Byte 16
  /-- `I` (R23). -/
  i : Word
  /-- `pc` (R24). -/
  pc : Word
  /-- `stack[0..15]` (R27). -/
  stack : Vector Word 16
  /-- `sp`, −1..15, −1 when empty (R28). -/
  sp : Int
  /-- `delay_timer` (R31). -/
  delayTimer : Byte
  /-- `sound_timer` (R31). -/
  soundTimer : Byte
  /-- `fb[0..31][0..63]` (R32). -/
  fb : FrameBuffer
  /-- `key_state[0..15]`, `true` for pressed (R33). -/
  keys : Vector Bool 16
  /-- `redraw_pending` (R34). -/
  redraw : Bool
  /-- `fault`: none, or the kind that ended the run (R35). -/
  fault : Option Fault
  /-- The model's own: FONT_DATA and FONT_STORE_POLICY, fixed for the run (R6; log 2, log 3). -/
  config : Config
  /-- The model's own: how many draws of RND have been taken (R131; log 4). -/
  draws : Nat
deriving DecidableEq, Repr, Inhabited

/-- The reset state under given parameters (R40, R230): every element zero or empty but `pc`, `sp` and the font, which
is what the unlisted cells of 0x000–0x04F read as. `draws` is where the environment's stream RND stands (log 5). -/
def State.resetWith (c : Config) (draws : Nat) : State where
  mem := []
  v := Vector.replicate 16 0
  i := 0
  pc := resetPc
  stack := Vector.replicate 16 0
  sp := resetSp
  delayTimer := 0
  soundTimer := 0
  fb := Vector.replicate 32 (Vector.replicate 64 false)
  keys := Vector.replicate 16 false
  redraw := false
  fault := none
  config := c
  draws := draws

/-- The machine right after construction (R41): the reset state with the parameters of `defaultConfig`. -/
def State.reset : State := State.resetWith defaultConfig 0

end Sys2Proof.Machine
end

