-- ==== Sys2Proof/Machine/Ops.lean ====
section
/-! DEFINITION. The operations the instructions and the cycle share: registers, memory, the return-address stack, the
frame buffer, the random source, taking a fault, and the parts of the cycle around an instruction. -/

namespace Sys2Proof.Machine

/-- What a cycle answers. -/
abbrev Result := Host.Outcome State Fault Refusal

/-! ## Registers -/

/-- `V[x]` (R21). -/
def State.reg (s : State) (x : Reg) : Byte := s.v[x]

/-- `V[x] <- b` (R21). -/
def State.setReg (s : State) (x : Reg) (b : Byte) : State := { s with v := s.v.set x.val b x.isLt }

/-- `I <- a` (R23). -/
def State.setIndex (s : State) (a : Word) : State := { s with i := a }

/-- `pc <- a` (R24). -/
def State.setPc (s : State) (a : Word) : State := { s with pc := a }

/-- `delay_timer <- b` (R31). -/
def State.setDelay (s : State) (b : Byte) : State := { s with delayTimer := b }

/-- `sound_timer <- b` (R31). -/
def State.setSound (s : State) (b : Byte) : State := { s with soundTimer := b }

/-- A skip: `pc <- pc + 2` on top of the step-6 advance, if the condition holds (R103; 16-bit, D21). -/
def State.skipIf (s : State) (c : Bool) : State := if c then s.setPc (s.pc + 2) else s

/-! ## Taking a fault -/

/-- `raise F` (R202): the cycle ends with the effects it has made and the `fault` element set. There is no vector, no
saved register and no mode, so nothing else changes, and there is no return from it (R205). -/
def raise (f : Fault) (s : State) : Result := .next { s with fault := some f }

/-! ## Memory (R50 to R56) -/

/-- `a & 0xFFF` of an exact address (R51). -/
def cell (a : Nat) : Nat := a % Config.memSize

/-- What cell `a` holds after reset, and so what an unlisted cell reads as (R40, R52): FONT_DATA in 0x000–0x04F, 0
elsewhere. -/
def Memory.background (c : Config) (a : Nat) : Byte := if h : a < 80 then c.fontData[a] else 0

/-- The byte listed for a cell, if any. -/
def Memory.find? : Memory → Nat → Option Byte
  | [], _ => none
  | (b, x) :: m, a => if a = b then some x else Memory.find? m a

/-- List a byte for a cell, keeping the addresses rising. -/
def Memory.put : Memory → Nat → Byte → Memory
  | [], a, x => [(a, x)]
  | (b, y) :: m, a, x =>
    if a < b then (a, x) :: (b, y) :: m
    else if a = b then (a, x) :: m
    else (b, y) :: Memory.put m a x

/-- Unlist a cell. -/
def Memory.drop : Memory → Nat → Memory
  | [], _ => []
  | (b, y) :: m, a => if a = b then m else (b, y) :: Memory.drop m a

/-- `memory[a & 0xFFF]` (R53). -/
def Memory.read (c : Config) (m : Memory) (a : Nat) : Byte :=
  (Memory.find? m (cell a)).getD (Memory.background c (cell a))

/-- `memory[a & 0xFFF] <- x` (R54), in canonical form: a cell that gets its reset contents back is unlisted. -/
def Memory.write (c : Config) (m : Memory) (a : Nat) (x : Byte) : Memory :=
  if x = Memory.background c (cell a) then Memory.drop m (cell a) else Memory.put m (cell a) x

/-- Bytes stored at successive addresses from `a`, each masked (R51). -/
def Memory.writeBlock (c : Config) (m : Memory) (a : Nat) : List Byte → Memory
  | [] => m
  | x :: xs => Memory.writeBlock c (Memory.write c m a x) (a + 1) xs

/-- The canonical form: cells inside the address space, addresses strictly rising, none at its reset contents. -/
abbrev Memory.wf (c : Config) (m : Memory) : Prop :=
  m.Pairwise (fun p q => p.1 < q.1) ∧ ∀ p ∈ m, p.1 < Config.memSize ∧ p.2 ≠ Memory.background c p.1

/-- `MemRead(a, 1)` (R53). -/
def State.readByte (s : State) (a : Nat) : Byte := Memory.read s.config s.mem a

/-- `memory[a & 0xFFF] <- x`, without a policy check (R54). -/
def State.writeByte (s : State) (a : Nat) (x : Byte) : State := { s with mem := Memory.write s.config s.mem a x }

/-- Bytes stored at successive addresses from `a`, without a policy check (R54). -/
def State.writeBytes (s : State) (a : Nat) (xs : List Byte) : State :=
  { s with mem := Memory.writeBlock s.config s.mem a xs }

/-- `FetchWord(a)` (R55): the big-endian word at the masked address, or AddressValueIsNotEven if that is odd. -/
def fetchWord (s : State) (a : Nat) : Except Fault Word :=
  if cell a % 2 = 1 then .error .addressValueIsNotEven
  else .ok (wordOfBytes (s.readByte (cell a)) (s.readByte (cell a + 1)))

/-! ## The return-address stack (R27 to R30) -/

/-- `Push(a)`; none where it faults StackPointerOutOfRange: on a full stack (R29), or with a corrupted pointer (R200;
log 15). -/
def push (s : State) (a : Word) : Option State :=
  if h : 0 ≤ s.sp + 1 ∧ s.sp + 1 < 16 then
    some { s with stack := s.stack.set (s.sp + 1).toNat a (by omega), sp := s.sp + 1 }
  else none

/-- `Pop()`: the popped entry and the state after it; the entry is not cleared (D7; log 10). None where it faults
StackPointerOutOfRange: on an empty stack (R30), or with a corrupted pointer (R200; log 15). -/
def pop (s : State) : Option (Word × State) :=
  if h : 0 ≤ s.sp ∧ s.sp < 16 then some (s.stack[s.sp.toNat]'(by omega), { s with sp := s.sp - 1 })
  else none

/-! ## The random source -/

/-- `DrawRandom()` (R131): the next draw of RND, and the state with the draw taken. -/
def drawRandom (s : State) : Byte × State := (Config.rnd s.draws, { s with draws := s.draws + 1 })

/-! ## The frame buffer (R32) -/

/-- A frame buffer of zeros (R150). -/
def clearedFb : FrameBuffer := Vector.replicate 32 (Vector.replicate 64 false)

/-- `fb[row][col]`. -/
def pixel (fb : FrameBuffer) (row : Fin 32) (col : Fin 64) : Bool := fb[row][col]

/-- `fb[row][col] <- fb[row][col] ^ 1`. -/
def togglePixel (fb : FrameBuffer) (row : Fin 32) (col : Fin 64) : FrameBuffer :=
  fb.set row.val (fb[row].set col.val (!pixel fb row col) col.isLt) row.isLt

/-! ## The parts of the cycle around an instruction (30_encoding.md R80 to R85) -/

/-- Steps 1 and 2 (R81): the fault of the first check that fails. -/
def checkState (s : State) : Option Fault :=
  if Config.memSize ≤ s.pc.toNat then some .programCounterOutOfRange
  else if s.sp < -1 ∨ 16 ≤ s.sp then some .stackPointerOutOfRange
  else none

/-- Step 3 (R82). -/
def clearRedraw (s : State) : State := { s with redraw := false }

/-- One timer's tick (R83). -/
def tick (t : Byte) : Byte := if 0 < t then t - 1 else t

/-- Step 4 (R83): the two timers tick independently. -/
def tickTimers (s : State) : State := { s with delayTimer := tick s.delayTimer, soundTimer := tick s.soundTimer }

/-- Step 6 (R85); modulo 2^16 (R25, D21). -/
def advancePc (s : State) : State := s.setPc (s.pc + 2)

end Sys2Proof.Machine
end

