-- ==== Sys2Proof/Machine/Operands.lean ====
section
/-! DEFINITION. The operand forms (42_index_memory.md R146). A register, an immediate byte or nibble and a 12-bit
address are read straight from the instruction's fields and `State.reg`; the forms that compute something are here. -/

namespace Sys2Proof.Machine

/-- An absolute 12-bit address as a 16-bit value, zero-extended (R101, R102, R140). -/
def absolute (nnn : Addr) : Word := nnn.setWidth 16

/-- The indexed jump's target `V[0] + nnn`, an exact sum, not masked (R107). -/
def indexedTarget (s : State) (nnn : Addr) : Word := BitVec.ofNat 16 ((s.reg 0).toNat + nnn.toNat)

/-- The index-register indirect address `(I + k) & 0xFFF` (R51, R146). -/
def effAddr (s : State) (k : Nat) : Nat := cell (s.i.toNat + k)

/-- The key index `V[x] mod 16` (R160, R161). -/
def keyIndex (s : State) (x : Reg) : Key := Fin.ofNat 16 (s.reg x).toNat

/-- The glyph address `(V[x] mod 16) * 5` (R142). -/
def glyphAddr (s : State) (x : Reg) : Word := BitVec.ofNat 16 ((s.reg x).toNat % 16 * 5)

/-- The decimal digits of a byte, hundreds first (R143). -/
def bcdDigits (b : Byte) : List Byte :=
  [BitVec.ofNat 8 (b.toNat / 100), BitVec.ofNat 8 (b.toNat / 10 % 10), BitVec.ofNat 8 (b.toNat % 10)]

/-- `V[0], …, V[x]`, the block Fx55 stores (R144). -/
def regBlock (s : State) (x : Reg) : List Byte := s.v.toList.take (x.val + 1)

/-- The lowest pressed key, scanning from 0 up to 15 (R163, D9; log 11). -/
def lowestPressed (s : State) : Option Key := (List.finRange 16).find? (fun k => s.keys[k])

end Sys2Proof.Machine
end

