-- ==== Sys2Proof/Machine/Flags.lean ====
section
/-! DEFINITION. The values VF gets as a side effect (10_state.md R22): the block has no other flag. -/

namespace Sys2Proof.Machine

/-- A condition as the byte 1 or 0. -/
def flagByte (c : Bool) : Byte := if c then 1 else 0

/-- 8xy4 (R126): the carry out of bit 7 of an exact sum. -/
def carryFlag (sum : Nat) : Byte := flagByte (decide (sum > 255))

/-- 8xy5 and 8xy7 (R127, R129): 1 if the minuend is strictly greater, so 0 when the two are equal (C12). -/
def greaterFlag (minuend subtrahend : Byte) : Byte := flagByte (decide (minuend > subtrahend))

/-- 8xy6 (R128): the bit shifted out, bit 0. -/
def shiftedOutRight (a : Byte) : Byte := a &&& 0x01

/-- 8xyE (R130): bit 7 in place, 0x80 or 0x00, never 1 (C9). -/
def shiftedOutLeft (a : Byte) : Byte := a &&& 0x80

/-- Dxyn (R151, R153): 1 if any pixel was erased. -/
def collisionFlag (erased : Bool) : Byte := flagByte erased

end Sys2Proof.Machine
end

