-- ==== Sys2Proof/Machine/Alu.lean ====
section
/-! DEFINITION. Register loads and the ALU (41_alu.md R120 to R131). Statements take effect in order and a later one
reads what an earlier one wrote (R10, D2; log 7), which matters when `x` or `y` is VF. -/

namespace Sys2Proof.Machine

/-- 6xnn LD Vx, nn (R120). -/
def execLdImm (x : Reg) (nn : Byte) (s : State) : Result := .next (s.setReg x nn)

/-- 7xnn ADD Vx, nn (R121): wraps, no flag. -/
def execAddImm (x : Reg) (nn : Byte) (s : State) : Result :=
  .next (s.setReg x (BitVec.ofNat 8 ((s.reg x).toNat + nn.toNat)))

/-- 8xy0 LD Vx, Vy (R122). -/
def execLdReg (x y : Reg) (s : State) : Result := .next (s.setReg x (s.reg y))

/-- 8xy1 OR Vx, Vy (R123). -/
def execOrReg (x y : Reg) (s : State) : Result := .next (s.setReg x (s.reg x ||| s.reg y))

/-- 8xy2 AND Vx, Vy (R124). -/
def execAndReg (x y : Reg) (s : State) : Result := .next (s.setReg x (s.reg x &&& s.reg y))

/-- 8xy3 XOR Vx, Vy (R125). -/
def execXorReg (x y : Reg) (s : State) : Result := .next (s.setReg x (s.reg x ^^^ s.reg y))

/-- 8xy4 ADD Vx, Vy (R126): the sum is computed before VF is written. -/
def execAddReg (x y : Reg) (s : State) : Result :=
  let sum := (s.reg x).toNat + (s.reg y).toNat
  let t := s.setReg VF (carryFlag sum)
  .next (t.setReg x (BitVec.ofNat 8 sum))

/-- 8xy5 SUB Vx, Vy (R127): the difference reads VF as just written if `x` or `y` is VF. -/
def execSub (x y : Reg) (s : State) : Result :=
  let t := s.setReg VF (greaterFlag (s.reg x) (s.reg y))
  .next (t.setReg x (t.reg x - t.reg y))

/-- 8xy6 SHR Vx (R128); `y` is ignored. -/
def execShr (x _y : Reg) (s : State) : Result :=
  let t := s.setReg VF (shiftedOutRight (s.reg x))
  .next (t.setReg x (t.reg x >>> 1))

/-- 8xy7 SUBN Vx, Vy (R129): the difference reads VF as just written if `x` or `y` is VF. -/
def execSubn (x y : Reg) (s : State) : Result :=
  let t := s.setReg VF (greaterFlag (s.reg y) (s.reg x))
  .next (t.setReg x (t.reg y - t.reg x))

/-- 8xyE SHL Vx (R130); `y` is ignored. -/
def execShl (x _y : Reg) (s : State) : Result :=
  let t := s.setReg VF (shiftedOutLeft (s.reg x))
  .next (t.setReg x (t.reg x <<< 1))

/-- Cxnn RND Vx, nn (R131): one draw, under the mask. -/
def execRnd (x : Reg) (nn : Byte) (s : State) : Result :=
  match drawRandom s with
  | (r, t) => .next (t.setReg x (r &&& nn))

end Sys2Proof.Machine
end

