-- ==== Sys2Proof/Machine/Control.lean ====
section
/-! DEFINITION. Control flow (40_control_flow.md R100 to R107). `pc` is the value after the step-6 advance, the
instruction's address plus 2 (R13). No target is checked when it is written (R108). -/

namespace Sys2Proof.Machine

/-- 00EE RET (R100): `pc <- Pop()`; `x` is ignored. -/
def execRet (_x : Reg) (s : State) : Result :=
  match pop s with
  | some (a, t) => .next (t.setPc a)
  | none => raise .stackPointerOutOfRange s

/-- 1nnn JP nnn (R101). -/
def execJp (nnn : Addr) (s : State) : Result := .next (s.setPc (absolute nnn))

/-- 2nnn CALL nnn (R102): `Push(pc); pc <- nnn`. -/
def execCall (nnn : Addr) (s : State) : Result :=
  match push s s.pc with
  | some t => .next (t.setPc (absolute nnn))
  | none => raise .stackPointerOutOfRange s

/-- 3xnn SE Vx, nn (R103). -/
def execSeImm (x : Reg) (nn : Byte) (s : State) : Result := .next (s.skipIf (s.reg x == nn))

/-- 4xnn SNE Vx, nn (R104). -/
def execSneImm (x : Reg) (nn : Byte) (s : State) : Result := .next (s.skipIf (s.reg x != nn))

/-- 5xy0 SE Vx, Vy (R105); `n` is ignored. -/
def execSeReg (x y : Reg) (_n : Nibble) (s : State) : Result := .next (s.skipIf (s.reg x == s.reg y))

/-- 9xy0 SNE Vx, Vy (R106); `n` is ignored. -/
def execSneReg (x y : Reg) (_n : Nibble) (s : State) : Result := .next (s.skipIf (s.reg x != s.reg y))

/-- Bnnn JP V0, nnn (R107). -/
def execJpV0 (nnn : Addr) (s : State) : Result := .next (s.setPc (indexedTarget s nnn))

end Sys2Proof.Machine
end

