-- ==== Sys2Proof/Machine/Display.lean ====
section
/-! DEFINITION. The display (43_display.md R150 to R154). -/

namespace Sys2Proof.Machine

/-- The frame buffer so far, and whether a pixel has been erased. -/
abbrev DrawAcc := FrameBuffer × Bool

/-- One sprite bit of R151's inner loop, at column offset `c` of sprite row `r`: bit `7 - c` (R152, D10; log 12), at the
wrapped coordinates. -/
def drawBit (x0 y0 : Nat) (b : Byte) (r : Nat) (acc : DrawAcc) (c : Nat) : DrawAcc :=
  let col := Fin.ofNat 64 (x0 + c)
  let row := Fin.ofNat 32 (y0 + r)
  if b.getLsbD (7 - c) then (togglePixel acc.1 row col, acc.2 || pixel acc.1 row col) else acc

/-- One sprite row of R151's outer loop: the byte at `(I + r) & 0xFFF`. -/
def drawRow (s : State) (x0 y0 : Nat) (acc : DrawAcc) (r : Nat) : DrawAcc :=
  (List.range 8).foldl (drawBit x0 y0 (s.readByte (effAddr s r)) r) acc

/-- The whole sprite of R151, `n` rows from I. -/
def drawSprite (s : State) (x0 y0 n : Nat) : DrawAcc := (List.range n).foldl (drawRow s x0 y0) (s.fb, false)

/-- 00E0 CLS (R150); `x` is ignored; `redraw_pending` is not set (R154). -/
def execCls (_x : Reg) (s : State) : Result := .next { s with fb := clearedFb }

/-- Dxyn DRW Vx, Vy, n (R151): the operands are read first and VF is written last (D17; log 14). -/
def execDrw (x y : Reg) (n : Nibble) (s : State) : Result :=
  match drawSprite s (s.reg x).toNat (s.reg y).toNat n.toNat with
  | (fb, erased) => .next { (s.setReg VF (collisionFlag erased)) with fb := fb, redraw := true }

end Sys2Proof.Machine
end

