-- ==== Sys2Proof/Machine/Index.lean ====
section
/-! DEFINITION. The index register and memory transfers (42_index_memory.md R140 to R145). No transfer changes I (D3). -/

namespace Sys2Proof.Machine

/-- Whether one of the `n` bytes from I lies in the font region 0x000–0x04F (R143, R144). -/
def touchesFont (s : State) (n : Nat) : Bool := (List.range n).any (fun k => decide (effAddr s k < Config.fontEnd))

/-- The store of Fx33 and Fx55: bytes at `(I + k) & 0xFFF`, k = 0, 1, …. Under FONT_STORE_POLICY = fault every target is
checked before anything is stored (R143, R144), so the check of each single MemWrite (R54) finds nothing more. -/
def storeBlock (s : State) (xs : List Byte) : Result :=
  if s.config.fontStorePolicy = .fault ∧ touchesFont s xs.length = true then raise .fontRegionWrite s
  else .next (s.writeBytes s.i.toNat xs)

/-- Annn LD I, nnn (R140). -/
def execLdI (nnn : Addr) (s : State) : Result := .next (s.setIndex (absolute nnn))

/-- Fx1E ADD I, Vx (R141): modulo 2^16, no flag. -/
def execAddI (x : Reg) (s : State) : Result :=
  .next (s.setIndex (BitVec.ofNat 16 (s.i.toNat + (s.reg x).toNat)))

/-- Fx29 LD F, Vx (R142). -/
def execLdF (x : Reg) (s : State) : Result := .next (s.setIndex (glyphAddr s x))

/-- Fx33 LD B, Vx (R143). -/
def execLdB (x : Reg) (s : State) : Result := storeBlock s (bcdDigits (s.reg x))

/-- Fx55 LD [I], Vx (R144). -/
def execLdMemFromRegs (x : Reg) (s : State) : Result := storeBlock s (regBlock s x)

/-- Fx65 LD Vx, [I] (R145): the reads change nothing, so the order of the loads does not matter. -/
def execLdRegsFromMem (x : Reg) (s : State) : Result :=
  .next { s with v := Vector.ofFn (fun k : Reg => if k ≤ x then s.readByte (effAddr s k.val) else s.reg k) }

end Sys2Proof.Machine
end

