-- ==== Sys2Proof/Machine/Keys.lean ====
section
/-! DEFINITION. Keys and timers (44_keys_timers.md R160 to R165). The timers have ticked before these run (R83). -/

namespace Sys2Proof.Machine

/-- Ex9E SKP Vx (R160). -/
def execSkp (x : Reg) (s : State) : Result := .next (s.skipIf s.keys[keyIndex s x])

/-- ExA1 SKNP Vx (R161). -/
def execSknp (x : Reg) (s : State) : Result := .next (s.skipIf (!s.keys[keyIndex s x]))

/-- Fx07 LD Vx, DT (R162). -/
def execLdVxDt (x : Reg) (s : State) : Result := .next (s.setReg x s.delayTimer)

/-- Fx0A LD Vx, K (R163): the lowest pressed key, or `pc <- pc - 2` so that the next cycle runs this instruction again. -/
def execLdVxK (x : Reg) (s : State) : Result :=
  match lowestPressed s with
  | some k => .next (s.setReg x (BitVec.ofNat 8 k.val))
  | none => .next (s.setPc (s.pc - 2))

/-- Fx15 LD DT, Vx (R164). -/
def execLdDtVx (x : Reg) (s : State) : Result := .next (s.setDelay (s.reg x))

/-- Fx18 LD ST, Vx (R165). -/
def execLdStVx (x : Reg) (s : State) : Result := .next (s.setSound (s.reg x))

end Sys2Proof.Machine
end

