-- ==== Sys2Proof/Machine/Cycle.lean ====
section
/-! DEFINITION. The eight-step cycle (30_encoding.md R80 to R89). -/

namespace Sys2Proof.Machine

/-- Steps 3 and 4, which every cycle that passes steps 1 and 2 makes (R82, R83). -/
def prepared (s : State) : State := tickTimers (clearRedraw s)

/-- Steps 6 to 8 on the word of step 5 (R85 to R87): `pc` is advanced before dispatch, and a word with no handler
raises UnsupportedOpcode with `pc` advanced (R88). -/
def dispatch (w : Word) (s : State) : Result :=
  match decodeWord w with
  | .ok i => exec i (advancePc s)
  | .error _ => raise .unsupportedOpcode (advancePc s)

/-- The cycle (R80). A fault ends it at once, with the effects of the earlier steps kept (R88). -/
def cycle (s : State) : Result :=
  match checkState s with
  | some f => raise f s
  | none =>
    match fetchWord (prepared s) s.pc.toNat with
    | .error f => raise f (prepared s)
    | .ok w => dispatch w (prepared s)

/-- The `step()` transaction: a cycle, admitted only while no fault is recorded (R35, R203; log 1). -/
def stepOnce (s : State) : Result :=
  match s.fault with
  | some f => .fault f
  | none => cycle s

/-- A table word's bytes stored at the pc, where the next cycle fetches (log 17). -/
def placeWord (s : State) (nbits w : Nat) : State := s.writeBytes s.pc.toNat (bytesOfTableWord nbits w)

end Sys2Proof.Machine
end

