-- ==== Sys2Proof/Machine/Step.lean ====
section
/-! DEFINITION. One `step()` of the block (30_encoding.md R80), and where a test places its next instruction. -/

namespace Sys2Proof.Machine

/-- One `step()` (R80, R203). -/
def step (s : State) : Host.Outcome State Fault Refusal := stepOnce s

/-- `s` with a table word stored where `step` fetches its next instruction (log 17). -/
def State.withFetchWord (s : State) (nbits w : Nat) : State := placeWord s nbits w

end Sys2Proof.Machine
end

