-- ==== Sys2Proof/Machine/Ports.lean ====
section
/-! DEFINITION. The host's transactions (10_state.md R38, 60_exceptions.md R209 to R213, 20_memory.md R53 to R56, R63,
R64): each is atomic and falls between two cycles (R65; log 19). `step()` is `Machine.step`; the `rnd` input is
`Config.rnd`. A transaction that this file does not hold does not exist (R209). -/

namespace Sys2Proof

/-- The state a failed `load` leaves, of which nothing is specified (R64, D13, U4). A free value: it has no body
(log 6). -/
opaque Config.failedLoad : List Byte → Machine.State → Machine.State

namespace Machine

/-- `reset()` (R230): every element at its value of R40, whatever the state was. The parameters and the environment's
stream are not the block's state and go on (log 5). -/
def hostReset (s : State) : State := State.resetWith s.config s.draws

/-- `load(bytes)` (R63, R64): the fault it returns, if any, and the state it leaves. Too many bytes record
AddressOutOfRange in a state of which nothing else is specified (log 6). -/
def hostLoad (bytes : List Byte) (s : State) : Option Fault × State :=
  if Config.programMaxLen < bytes.length then
    (some .addressOutOfRange,
      { Config.failedLoad bytes s with fault := some .addressOutOfRange, config := s.config, draws := s.draws })
  else (none, (hostReset s).writeBytes Config.programBase bytes)

/-- `read(addr)` (R53): total, and it changes nothing. -/
def hostRead (a : Nat) (s : State) : Byte := s.readByte a

/-- `write(byte, addr)` (R54, C19): total, never subject to FONT_STORE_POLICY. -/
def hostWrite (b : Byte) (a : Nat) (s : State) : State := s.writeByte a b

/-- `read_opcode(addr)` (R55): the word or the fault it returns; it changes nothing, `fault` included (C18). -/
def hostReadOpcode (a : Nat) (s : State) : Except Fault Word := fetchWord s a

/-- `write_opcode(opcode, addr)` (R56): the odd test first (C5), then the bound 0x200; the state it leaves, or the fault
it returns and no change, `fault` included (C18). -/
def hostWriteOpcode (op a : Nat) (s : State) : Except Fault State :=
  let w : Word := BitVec.ofNat 16 op
  if cell a % 2 = 1 then .error .addressValueIsNotEven
  else if cell a < Config.programBase then .error .addressOutOfRange
  else .ok (s.writeBytes (cell a) [highByte w, lowByte w])

/-- `set_key(k, pressed)` (R210). -/
def setKey (k : Key) (pressed : Bool) (s : State) : State := { s with keys := s.keys.set k.val pressed k.isLt }

/-- `fb_read` (R211). -/
def fbRead (s : State) : FrameBuffer := s.fb

/-- The `delay_timer` readout (R212). -/
def delayRead (s : State) : Byte := s.delayTimer

/-- The `sound_timer` readout (R212). -/
def soundRead (s : State) : Byte := s.soundTimer

/-- The `redraw_pending` readout (R213). -/
def redrawRead (s : State) : Bool := s.redraw

/-- A fault's number (R200, D22; log 21). -/
def Fault.code : Fault → Nat
  | .addressOutOfRange => 1
  | .addressValueIsNotEven => 2
  | .programCounterOutOfRange => 3
  | .stackPointerOutOfRange => 4
  | .unsupportedOpcode => 5
  | .fontRegionWrite => 6

/-- The `fault_code` port (R38, R200): 0 while no fault is recorded. -/
def faultCode (s : State) : Nat :=
  match s.fault with
  | none => 0
  | some f => f.code

end Machine

end Sys2Proof
end

