-- ==== Sys2Proof/Machine/Runs.lean ====
section
/-! DEFINITION. Runs of the block (70_reset_and_hazards.md R239): the host's transactions as data (10_state.md R38), and
`step()` calls from a launch state with chosen transactions between them (log 19). The `rnd` draws of a run are those of
the free stream `Config.rnd`, so a statement about a run holds for every sequence of draws (R214). -/

namespace Sys2Proof.Machine

/-- What the host may do between two cycles (R209): a row of R38 each, `step()` and the `rnd` input apart. -/
inductive Transaction where
  /-- `reset()` (R230). -/
  | reset
  /-- `load(bytes)` (R63, R64). -/
  | load (bytes : List Byte)
  /-- `read(addr)` (R53). -/
  | read (addr : Nat)
  /-- `write(byte, addr)` (R54). -/
  | write (byte : Byte) (addr : Nat)
  /-- `read_opcode(addr)` (R55). -/
  | readOpcode (addr : Nat)
  /-- `write_opcode(opcode, addr)` (R56). -/
  | writeOpcode (opcode addr : Nat)
  /-- `set_key(k, pressed)` (R210). -/
  | setKey (k : Key) (pressed : Bool)
  /-- `fb_read` (R211). -/
  | fbRead
  /-- The `delay_timer` readout (R212). -/
  | delayRead
  /-- The `sound_timer` readout (R212). -/
  | soundRead
  /-- The `redraw_pending` readout (R213). -/
  | redrawRead
  /-- The `fault_code` port (R200). -/
  | faultRead
deriving DecidableEq, Repr

/-- The transactions that only read (log 22). -/
def isReadout : Transaction → Bool
  | .reset => false
  | .load _ => false
  | .read _ => true
  | .write _ _ => false
  | .readOpcode _ => true
  | .writeOpcode _ _ => false
  | .setKey _ _ => false
  | .fbRead => true
  | .delayRead => true
  | .soundRead => true
  | .redrawRead => true
  | .faultRead => true

/-- The state a transaction leaves. A `write_opcode` that fails changes nothing (R56, R202); what a transaction answers is
given by its definition in Machine/Ports.lean. -/
def applyTransaction (x : Transaction) (s : State) : State :=
  match x with
  | .reset => hostReset s
  | .load bytes => (hostLoad bytes s).2
  | .read _ => s
  | .write b a => hostWrite b a s
  | .readOpcode _ => s
  | .writeOpcode op a =>
    match hostWriteOpcode op a s with
    | .ok t => t
    | .error _ => s
  | .setKey k p => setKey k p s
  | .fbRead => s
  | .delayRead => s
  | .soundRead => s
  | .redrawRead => s
  | .faultRead => s

/-- A run goes on from a next state with no fault recorded, and ends at a fault (R203, R239). -/
def goOn (r : Result) (k : State → Result) : Result :=
  match r with
  | .next t =>
    match t.fault with
    | none => k t
    | some f => .fault f
  | .fault f => .fault f
  | .refused x => .refused x

/-- The transactions between two cycles, in order, each atomic (R65). A fault recorded before or between them has ended the
run: only a new run starts with a `reset()` or a `load` after it (R203), a failed `load` included (R64). -/
def between : List Transaction → State → Result
  | [], s => goOn (.next s) .next
  | x :: xs, s => goOn (.next s) (fun t => between xs (applyTransaction x t))

/-- What the host does during a run: the transactions before each of its cycles, first to last. Its length is the number
N of cycles. -/
abbrev Schedule := List (List Transaction)

/-- The run of a schedule from a launch state, as R239 observes it: the state after its N cycles, or the fault. -/
def runWith : Schedule → State → Result
  | [], s => between [] s
  | xs :: h, s => goOn (between xs s) (fun t => goOn (step t) (runWith h))

end Sys2Proof.Machine
end

