-- ==== Sys2Proof/Safety.lean ====
section
/-! DEFINITION. What counts as a safe run, and the terms claims use: the invariant of the state (10_state.md R37), the
frame of an instruction (00_scope.md R11), and a sprite's coverage of a pixel (43_display.md R151). -/

namespace Sys2Proof.Machine

/-- The invariants of R37 that the types do not already give: memory in its canonical form (so inside its 4096 cells),
sp in −1..15, every stack entry even and at most 0x1000, and pc at most 0x10FE. -/
def Inv (s : State) : Prop :=
  Memory.wf s.config s.mem ∧ (-1 ≤ s.sp ∧ s.sp ≤ 15) ∧
    (∀ k : Fin 16, s.stack[k].toNat % 2 = 0 ∧ s.stack[k].toNat ≤ 0x1000) ∧ s.pc.toNat ≤ 0x10FE

/-- The cycle of this state passes steps 1 and 2 (R81) and is admitted (R203). -/
def Admitted (s : State) : Prop := s.fault = none ∧ s.pc.toNat < 0x1000 ∧ -1 ≤ s.sp ∧ s.sp ≤ 15

/-- The word this state's cycle fetches (R59, R84): the byte at pc is its high half. -/
def wordAtPc (s : State) : Word := s.readByte s.pc.toNat ++ s.readByte (s.pc.toNat + 1)

/-- The run of a schedule from launch state `s` takes all its cycles without a fault, with the schedule's transactions
between them, and leaves `t` (R239). -/
def SafeRun (h : Schedule) (s t : State) : Prop := runWith h s = .next t

/-- The host only reads during the run. -/
def OnlyReads (h : Schedule) : Prop := ∀ xs ∈ h, ∀ x ∈ xs, isReadout x = true

/-- What an instruction may change: the registers listed, the memory cells listed, and the elements marked. The program
counter is marked by the instructions that write it over the step-6 advance. -/
structure Touches where
  regs : List Reg := []
  cells : List Nat := []
  index : Bool := false
  pc : Bool := false
  stack : Bool := false
  delay : Bool := false
  sound : Bool := false
  fb : Bool := false
  redraw : Bool := false
  draws : Bool := false

/-- The frame rule (R11): from `s` to `t` nothing changes but what `u` names. The key latches, the fault element and the
parameters are never named. Memory is compared through the read of one byte. -/
def Frame (u : Touches) (s t : State) : Prop :=
  (∀ r : Reg, r ∉ u.regs → t.reg r = s.reg r) ∧
  (∀ a : Nat, cell a ∉ u.cells → t.readByte a = s.readByte a) ∧
  (u.index = false → t.i = s.i) ∧
  (u.pc = false → t.pc = s.pc) ∧
  (u.stack = false → t.stack = s.stack ∧ t.sp = s.sp) ∧
  (u.delay = false → t.delayTimer = s.delayTimer) ∧
  (u.sound = false → t.soundTimer = s.soundTimer) ∧
  (u.fb = false → t.fb = s.fb) ∧
  (u.redraw = false → t.redraw = s.redraw) ∧
  (u.draws = false → t.draws = s.draws) ∧
  t.keys = s.keys ∧ t.fault = s.fault ∧ t.config = s.config

/-- The sprite of R151 has a set bit that lands on a pixel: with `r` and `c` the pixel's offsets from the origin, both
wrapping, row `r` is one of the sprite's `n` rows, column `c` one of its 8, and bit `7 - c` of row `r`'s byte is set
(R152). `read r` is the byte of sprite row `r`. -/
def spriteCovers (read : Nat → Byte) (x0 y0 n : Nat) (row : Fin 32) (col : Fin 64) : Bool :=
  let r := (row.val + 32 - y0 % 32) % 32
  let c := (col.val + 64 - x0 % 64) % 64
  decide (r < n) && decide (c < 8) && (read r).getLsbD (7 - c)

/-- The registers an instruction names as its destination, VF's side effects aside (40 to 44). -/
def destinations : Instr → List Reg
  | .ldImm x _ => [x]
  | .addImm x _ => [x]
  | .ldReg x _ => [x]
  | .orReg x _ => [x]
  | .andReg x _ => [x]
  | .xorReg x _ => [x]
  | .addReg x _ => [x]
  | .sub x _ => [x]
  | .shr x _ => [x]
  | .subn x _ => [x]
  | .shl x _ => [x]
  | .rnd x _ => [x]
  | .ldVxDt x => [x]
  | .ldVxK x => [x]
  | .ldRegsFromMem x => (List.finRange 16).filter (fun k => k ≤ x)
  | .cls _ => []
  | .ret _ => []
  | .jp _ => []
  | .call _ => []
  | .seImm _ _ => []
  | .sneImm _ _ => []
  | .seReg _ _ _ => []
  | .sneReg _ _ _ => []
  | .ldI _ => []
  | .jpV0 _ => []
  | .drw _ _ _ => []
  | .skp _ => []
  | .sknp _ => []
  | .ldDtVx _ => []
  | .ldStVx _ => []
  | .addI _ => []
  | .ldF _ => []
  | .ldB _ => []
  | .ldMemFromRegs _ => []

/-- The six instructions that write VF as a side effect (R22). -/
def writesFlag (i : Instr) : Prop :=
  (∃ x y, i = .addReg x y ∨ i = .sub x y ∨ i = .shr x y ∨ i = .subn x y ∨ i = .shl x y) ∨ ∃ x y n, i = .drw x y n

/-- The pc after a cycle that executes an instruction without a fault, from the state before the cycle (R24's table).
Sums are exact: the fetch address is below 0x1000. -/
def pcAfter (i : Instr) (s : State) : Nat :=
  let a := s.pc.toNat
  match i with
  | .seImm x nn => if s.reg x = nn then a + 4 else a + 2
  | .sneImm x nn => if s.reg x ≠ nn then a + 4 else a + 2
  | .seReg x y _ => if s.reg x = s.reg y then a + 4 else a + 2
  | .sneReg x y _ => if s.reg x ≠ s.reg y then a + 4 else a + 2
  | .skp x => if s.keys[Fin.ofNat 16 (s.reg x).toNat] = true then a + 4 else a + 2
  | .sknp x => if s.keys[Fin.ofNat 16 (s.reg x).toNat] = false then a + 4 else a + 2
  | .jp nnn => nnn.toNat
  | .call nnn => nnn.toNat
  | .jpV0 nnn => (s.reg 0).toNat + nnn.toNat
  | .ret _ => (s.stack[s.sp.toNat]?.getD 0).toNat
  | .ldVxK _ => if ∀ k : Key, s.keys[k] = false then a else a + 2
  | .cls _ => a + 2
  | .ldImm _ _ => a + 2
  | .addImm _ _ => a + 2
  | .ldReg _ _ => a + 2
  | .orReg _ _ => a + 2
  | .andReg _ _ => a + 2
  | .xorReg _ _ => a + 2
  | .addReg _ _ => a + 2
  | .sub _ _ => a + 2
  | .shr _ _ => a + 2
  | .subn _ _ => a + 2
  | .shl _ _ => a + 2
  | .ldI _ => a + 2
  | .rnd _ _ => a + 2
  | .drw _ _ _ => a + 2
  | .ldVxDt _ => a + 2
  | .ldDtVx _ => a + 2
  | .ldStVx _ => a + 2
  | .addI _ => a + 2
  | .ldF _ => a + 2
  | .ldB _ => a + 2
  | .ldMemFromRegs _ => a + 2
  | .ldRegsFromMem _ => a + 2

/-- I after an instruction (R23): three instructions write it. -/
def indexAfter (i : Instr) (s : State) : Nat :=
  match i with
  | .ldI nnn => nnn.toNat
  | .addI x => (s.i.toNat + (s.reg x).toNat) % 0x10000
  | .ldF x => (s.reg x).toNat % 16 * 5
  | _ => s.i.toNat

end Sys2Proof.Machine
end

