-- ==== Sys2Proof/Certificates/Slice0/Obligations.lean ====
section
/-! DEFINITION. The statements for the provers. A statement that rests on a convention the spec marks as its own
decision or inference names the log entry that declares it. An instruction's `pc` is the value after the step-6 advance
(00_scope.md R13). -/

open Sys2Proof Sys2Proof.Machine

/-! ## Encoding and decoding -/

/-- 30_encoding.md R70 to R74: decoding an encoded instruction gives it back, as a word and as the first two bytes of any
byte sequence. -/
def Obligations.DecodeInvertsEncode : Prop :=
  ∀ i : Instr, decodeWord (encode i) = .ok i ∧ ∀ rest, decodeBytes (encodeBytes i ++ rest) = .ok (i, rest)

/-- 30_encoding.md R71, R76: encoding a decoded word gives the word back, so decoding drops no bit of it, ignored fields
included (log 13). -/
def Obligations.EncodeInvertsDecode : Prop :=
  ∀ (w : Word) (i : Instr), decodeWord w = .ok i → encode i = w

/-- 30_encoding.md, the table of unsupported words, which the spec marks as derived. -/
def Obligations.UnsupportedWordsAreExactlyThese : Prop :=
  ∀ w : Word, decodeWord w ≠ .error .truncated ∧
    (decodeWord w = .error .unsupportedOpcode ↔
      (w.toNat / 0x1000 = 0x0 ∧ w.toNat % 0x100 ∉ [0xE0, 0xEE]) ∨
      (w.toNat / 0x1000 = 0x8 ∧ w.toNat % 0x10 ∈ [0x8, 0x9, 0xA, 0xB, 0xC, 0xD, 0xF]) ∨
      (w.toNat / 0x1000 = 0xE ∧ w.toNat % 0x100 ∉ [0x9E, 0xA1]) ∨
      (w.toNat / 0x1000 = 0xF ∧ w.toNat % 0x100 ∉ [0x07, 0x0A, 0x15, 0x18, 0x1E, 0x29, 0x33, 0x55, 0x65]))

/-- R74: the decoder is the opcode map. A word decodes to an instruction of the row whose match and mask it meets, and is
UnsupportedOpcode if it meets none. -/
def Obligations.DecoderFollowsTheOpcodeMap : Prop :=
  ∀ w : Word,
    (∀ i, decodeWord w = .ok i → w &&& i.tableRow.2 = i.tableRow.1) ∧
    (∀ i : Instr, w &&& i.tableRow.2 = i.tableRow.1 → ∃ j, decodeWord w = .ok j ∧ j.tableRow = i.tableRow) ∧
    ((∀ i : Instr, w &&& i.tableRow.2 ≠ i.tableRow.1) → decodeWord w = .error .unsupportedOpcode)

/-- R71: the six fields are these unsigned slices, and they overlap as stated. -/
def Obligations.FieldsAreTheStatedSlices : Prop :=
  ∀ w : Word, (fieldG w).toNat = w.toNat / 0x1000 ∧ (fieldX w).val = w.toNat / 0x100 % 16 ∧
    (fieldY w).val = w.toNat / 0x10 % 16 ∧ (fieldN w).toNat = w.toNat % 16 ∧ (fieldNN w).toNat = w.toNat % 256 ∧
    (fieldNNN w).toNat = w.toNat % 4096 ∧ (fieldNN w).toNat = (fieldY w).val * 16 + (fieldN w).toNat ∧
    (fieldNNN w).toNat = (fieldX w).val * 256 + (fieldNN w).toNat

/-- Words of 95_test_vectors.md (E-1 to E-12) and of the rules' examples, bit by bit, decode to the instructions they
stand for. -/
def Obligations.SampleWordsDecodeAsTheSpecSays : Prop :=
  decodeWord 0b1101000100101010 = .ok (.drw 1 2 10) ∧ decodeWord 0b0000000011100000 = .ok (.cls 0) ∧
  decodeWord 0b0000111111101110 = .ok (.ret 15) ∧ decodeWord 0b0010001000000100 = .ok (.call 0x204) ∧
  decodeWord 0b1000000100100110 = .ok (.shr 1 2) ∧ decodeWord 0b1000000100100101 = .ok (.sub 1 2) ∧
  decodeWord 0b1110001010011110 = .ok (.skp 2) ∧ decodeWord 0b1111000000101001 = .ok (.ldF 0) ∧
  decodeWord 0b1111001001010101 = .ok (.ldMemFromRegs 2) ∧ decodeWord 0b1100001100001111 = .ok (.rnd 3 0x0F) ∧
  decodeWord 0b0000000000000000 = .error .unsupportedOpcode ∧
  decodeWord 0b1000000000001000 = .error .unsupportedOpcode ∧
  decodeWord 0b1110000010011111 = .error .unsupportedOpcode ∧
  decodeWord 0b1111000001110101 = .error .unsupportedOpcode

/-! ## The cycle -/

/-- R87, with steps 3, 4 and 6 before it written out (R80): a cycle that passes the checks and fetches at an even pc runs
the handler of the fetched word with the redraw latch cleared, the timers ticked and pc advanced by 2; a word with no
handler raises UnsupportedOpcode and nothing of step 8 takes effect. -/
def Obligations.StepRunsTheDecodedInstruction : Prop :=
  ∀ s : State, Admitted s → s.pc.toNat % 2 = 0 →
    (∀ i, decodeWord (wordAtPc s) = .ok i →
      step s = exec i { s with
        redraw := false, pc := s.pc + 2,
        delayTimer := if 0 < s.delayTimer then s.delayTimer - 1 else s.delayTimer,
        soundTimer := if 0 < s.soundTimer then s.soundTimer - 1 else s.soundTimer }) ∧
    (∀ e, decodeWord (wordAtPc s) = .error e →
      step s = .next { s with
        redraw := false, pc := s.pc + 2,
        delayTimer := if 0 < s.delayTimer then s.delayTimer - 1 else s.delayTimer,
        soundTimer := if 0 < s.soundTimer then s.soundTimer - 1 else s.soundTimer,
        fault := some .unsupportedOpcode })

/-- The model's placing of a word (log 17): the cycle after it fetches and decodes exactly the placed instruction, and no
other byte of memory has changed. -/
def Obligations.PlacedInstructionIsFetched : Prop :=
  ∀ (s : State) (i : Instr), Admitted s → s.pc.toNat % 2 = 0 → Memory.wf s.config s.mem →
    Admitted (s.withFetchWord 16 (encode i).toNat) ∧ (s.withFetchWord 16 (encode i).toNat).pc = s.pc ∧
    decodeWord (wordAtPc (s.withFetchWord 16 (encode i).toNat)) = .ok i ∧
    decodeTableWord 16 (encode i).toNat = some i ∧
    ∀ a, a % 0x1000 ≠ s.pc.toNat → a % 0x1000 ≠ s.pc.toNat + 1 →
      (s.withFetchWord 16 (encode i).toNat).readByte a = s.readByte a

/-- The faults of a cycle before step 8, in their order (D4, D26; log 1, log 9, log 15). Step 1, then step 2: nothing
changes but the fault element. Step 5 at an odd pc: the latch is cleared, the timers have ticked, pc is not advanced. -/
def Obligations.EarlyFaultsKeepTheEarlierEffects : Prop :=
  ∀ s : State, s.fault = none →
    (0x1000 ≤ s.pc.toNat → step s = .next { s with fault := some .programCounterOutOfRange }) ∧
    (s.pc.toNat < 0x1000 → s.sp < -1 ∨ 15 < s.sp → step s = .next { s with fault := some .stackPointerOutOfRange }) ∧
    (s.pc.toNat < 0x1000 → -1 ≤ s.sp → s.sp ≤ 15 → s.pc.toNat % 2 = 1 →
      step s = .next { s with
        redraw := false,
        delayTimer := if 0 < s.delayTimer then s.delayTimer - 1 else s.delayTimer,
        soundTimer := if 0 < s.soundTimer then s.soundTimer - 1 else s.soundTimer,
        fault := some .addressValueIsNotEven })

/-- R83: every cycle that passes steps 1 and 2 ticks each timer exactly once, whether or not step 5 or step 8 faults; only
Fx15 and Fx18, which run after the tick, leave another value, and Fx07 reads the ticked one. -/
def Obligations.TimersTickOncePerCycle : Prop :=
  ∀ s : State, Admitted s → ∃ t, step s = .next t ∧
    ((s.pc.toNat % 2 = 1 ∨ ∀ x, decodeWord (wordAtPc s) ≠ .ok (.ldDtVx x)) →
      t.delayTimer.toNat = s.delayTimer.toNat - 1) ∧
    ((s.pc.toNat % 2 = 1 ∨ ∀ x, decodeWord (wordAtPc s) ≠ .ok (.ldStVx x)) →
      t.soundTimer.toNat = s.soundTimer.toNat - 1) ∧
    (∀ x, s.pc.toNat % 2 = 0 → decodeWord (wordAtPc s) = .ok (.ldDtVx x) → t.delayTimer = s.reg x) ∧
    (∀ x, s.pc.toNat % 2 = 0 → decodeWord (wordAtPc s) = .ok (.ldStVx x) → t.soundTimer = s.reg x) ∧
    (∀ x, s.pc.toNat % 2 = 0 → decodeWord (wordAtPc s) = .ok (.ldVxDt x) → (t.reg x).toNat = s.delayTimer.toNat - 1)

/-- The model's sticky fault (D5; log 1): a step is admitted exactly while no fault is recorded, it stops with the recorded
kind otherwise, and it never refuses. -/
def Obligations.StepStopsExactlyAfterAFault : Prop :=
  ∀ s : State, (∀ f, step s = .fault f ↔ s.fault = some f) ∧ (s.fault = none ↔ ∃ t, step s = .next t) ∧
    ∀ r, step s ≠ .refused r

/-- 43_display.md, the redraw latch: after a cycle that passes the checks the latch is 1 exactly when that cycle executed
Dxyn. -/
def Obligations.RedrawLatchReportsExactlyDraws : Prop :=
  ∀ s : State, Admitted s → ∃ t, step s = .next t ∧
    (t.redraw = true ↔ s.pc.toNat % 2 = 0 ∧ ∃ x y n, decodeWord (wordAtPc s) = .ok (.drw x y n))

/-- 10_state.md, the return-address stack: only 2nnn and 00EE change it or its pointer. -/
def Obligations.OnlyCallAndReturnTouchTheStack : Prop :=
  ∀ s t : State, step s = .next t → (∀ nnn, decodeWord (wordAtPc s) ≠ .ok (.call nnn)) →
    (∀ x, decodeWord (wordAtPc s) ≠ .ok (.ret x)) → t.stack = s.stack ∧ t.sp = s.sp

/-- 10_state.md, the index register: I is written by Annn, Fx1E and Fx29 and by nothing else, so Fx55 and Fx65 do not advance
it (D3; log 8); only Fx1E can make it exceed 0xFFF; no instruction but Dxyn, Fx1E, Fx33, Fx55 and Fx65 reads it (two states
that differ only in I still do, and in nothing else, after any other instruction that does not write it, and agree after
Annn and Fx29); the effective address of offset k from I is masked to 12 bits; at reset I is 0. -/
def Obligations.IndexIsWrittenOnlyByItsThree : Prop :=
  (∀ (i : Instr) (s t : State), exec i s = .next t → t.i.toNat = indexAfter i s ∧
    (0xFFF < t.i.toNat → t.i = s.i ∨ ∃ x, i = .addI x)) ∧
  (∀ (i : Instr) (s t : State) (a : Word), exec i s = .next t → (∀ x y n, i ≠ .drw x y n) →
    (∀ x, i ≠ .addI x ∧ i ≠ .ldB x ∧ i ≠ .ldMemFromRegs x ∧ i ≠ .ldRegsFromMem x) →
    ((∀ nnn, i ≠ .ldI nnn) → (∀ x, i ≠ .ldF x) → exec i { s with i := a } = .next { t with i := a }) ∧
    ((∃ nnn, i = .ldI nnn) ∨ (∃ x, i = .ldF x) → exec i { s with i := a } = .next t)) ∧
  (∀ (s : State) (k : Nat), effAddr s k = (s.i.toNat + k) % 0x1000) ∧
  (∀ s : State, (hostReset s).i = 0)

/-- R24: the word is fetched at pc, the instruction runs with pc advanced by 2, and pc after a cycle that executes an
instruction without a fault is as the table says, for every instruction; at reset it is 0x200. -/
def Obligations.ProgramCounterAfterACycle : Prop :=
  (∀ (s t : State) (i : Instr), Admitted s → s.pc.toNat % 2 = 0 → decodeWord (wordAtPc s) = .ok i → step s = .next t →
    step s = exec i (advancePc (prepared s)) ∧ (advancePc (prepared s)).pc.toNat = s.pc.toNat + 2 ∧
    (t.fault = none → t.pc.toNat = pcAfter i s)) ∧
  (∀ s : State, (hostReset s).pc = 0x200)

/-- 10_state.md, the timers: no instruction reads the sound timer. Two states that differ only there still do, and in
nothing else, after any instruction but Fx18, and agree after Fx18. -/
def Obligations.SoundTimerIsNeverRead : Prop :=
  ∀ (i : Instr) (s t : State) (b : Byte), exec i s = .next t →
    ((∀ x, i ≠ .ldStVx x) → exec i { s with soundTimer := b } = .next { t with soundTimer := b }) ∧
    ((∃ x, i = .ldStVx x) → exec i { s with soundTimer := b } = .next t)

/-- 10_state.md, VF: over all instructions, a register changes only as the instruction's destination, or, for VF, by one of
the six instructions that write it as a side effect (D3; log 8). -/
def Obligations.RegistersChangeOnlyAsDestinationOrFlag : Prop :=
  ∀ (i : Instr) (s t : State) (r : Reg), exec i s = .next t → r ∉ destinations i → (r = VF → ¬ writesFlag i) →
    t.reg r = s.reg r

/-- 10_state.md, the key latches: no step writes them; and the model's own fields: no step changes the parameters (log 2,
log 3), and a step takes a draw only by executing Cxnn (log 4). -/
def Obligations.StepNeverWritesKeysOrParameters : Prop :=
  ∀ s t : State, step s = .next t → t.keys = s.keys ∧ t.config = s.config ∧
    ((∀ x nn, decodeWord (wordAtPc s) ≠ .ok (.rnd x nn)) → t.draws = s.draws)

/-- 60_exceptions.md, where faults are raised: an instruction raises only StackPointerOutOfRange (2nnn, 00EE) and
FontRegionWrite (Fx33, Fx55, under the policy), exactly where its rule says so, and one that faults changes nothing else
(D6, D12; log 3, log 10, log 15). -/
def Obligations.InstructionFaultsAreExactlyThese : Prop :=
  (∀ (i : Instr) (s t : State), exec i s = .next t → t.fault = s.fault ∨
    (t = { s with fault := some .stackPointerOutOfRange } ∧
      ((∃ nnn, i = .call nnn) ∧ ¬ (-1 ≤ s.sp ∧ s.sp ≤ 14) ∨ (∃ x, i = .ret x) ∧ ¬ (0 ≤ s.sp ∧ s.sp ≤ 15))) ∨
    (t = { s with fault := some .fontRegionWrite } ∧ s.config.fontStorePolicy = .fault ∧
      ∃ x, (i = .ldB x ∧ ∃ k, k < 3 ∧ (s.i.toNat + k) % 0x1000 ≤ 0x04F) ∨
        (i = .ldMemFromRegs x ∧ ∃ k, k ≤ x.val ∧ (s.i.toNat + k) % 0x1000 ≤ 0x04F))) ∧
  ∀ (x : Reg) (nnn : Addr) (s : State),
    (¬ (-1 ≤ s.sp ∧ s.sp ≤ 14) → exec (.call nnn) s = .next { s with fault := some .stackPointerOutOfRange }) ∧
    (¬ (0 ≤ s.sp ∧ s.sp ≤ 15) → exec (.ret x) s = .next { s with fault := some .stackPointerOutOfRange }) ∧
    (s.config.fontStorePolicy = .fault → (∃ k, k < 3 ∧ (s.i.toNat + k) % 0x1000 ≤ 0x04F) →
      exec (.ldB x) s = .next { s with fault := some .fontRegionWrite }) ∧
    (s.config.fontStorePolicy = .fault → (∃ k, k ≤ x.val ∧ (s.i.toNat + k) % 0x1000 ≤ 0x04F) →
      exec (.ldMemFromRegs x) s = .next { s with fault := some .fontRegionWrite })

/-! ## Invariants -/

/-- The invariant holds at reset, under every font and policy (log 2, log 3). -/
def Obligations.ResetSatisfiesTheInvariant : Prop :=
  ∀ (c : Config) (n : Nat), Inv (State.resetWith c n)

/-- 10_state.md, the invariants (which the spec marks as derived): every step keeps memory canonical and inside its 4096
cells, sp in −1..15, every stack entry even and at most 0x1000, and pc at most 0x10FE. -/
def Obligations.StepKeepsTheInvariant : Prop :=
  ∀ s t : State, Inv s → step s = .next t → Inv t

/-- 10_state.md, the invariants: the host transactions that do not fail keep the invariant too, also while a fault is
recorded (log 20), and so does a run with any transactions between its cycles (log 19). The state a failed load leaves is
free (log 6); a run ends there. -/
def Obligations.TransactionsKeepTheInvariant : Prop :=
  ∀ s : State, Inv s → Inv (hostReset s) ∧ (∀ b a, Inv (hostWrite b a s)) ∧ (∀ k p, Inv (setKey k p s)) ∧
    (∀ op a t, hostWriteOpcode op a s = .ok t → Inv t) ∧ (∀ bytes t, hostLoad bytes s = (none, t) → Inv t) ∧
    (∀ x, (∀ bytes, x = .load bytes → bytes.length ≤ 3584) → Inv (applyTransaction x s)) ∧
    ∀ h t, SafeRun h s t → Inv t

/-! ## Memory, reset and the host's transactions -/

/-- R53: a byte read gives the cell at the masked address, for any address. -/
def Obligations.ByteReadsMaskTheAddress : Prop :=
  ∀ (s : State) (a : Nat), hostRead a s = Memory.read s.config s.mem (a % 0x1000) ∧ hostRead a s = s.readByte a

/-- 20_memory.md, the host's `write` (C19): the byte is read back at every alias of the address, every other cell and every
other element is unchanged, under either FONT_STORE_POLICY. -/
def Obligations.HostWriteIsReadBack : Prop :=
  ∀ (s : State) (b : Byte) (a : Nat), Memory.wf s.config s.mem →
    (∀ c, hostRead c (hostWrite b a s) = if c % 0x1000 = a % 0x1000 then b else hostRead c s) ∧
    hostWrite b a s = { s with mem := (hostWrite b a s).mem }

/-- The model's memory is canonical: two that are well formed and read alike are equal as data. -/
def Obligations.MemoriesThatReadAlikeAreEqual : Prop :=
  ∀ (c : Config) (m m' : Memory), Memory.wf c m → Memory.wf c m' →
    (∀ a, a < 0x1000 → Memory.read c m a = Memory.read c m' a) → m = m'

/-- R56: `write_opcode` masks both arguments, tests oddness first and the bound 0x200 second, and otherwise writes the two
bytes, the high one first. And 20_memory.md, `read_opcode`: it masks the address, fails at an odd one, and otherwise returns
the two bytes there as a word, the high one first; after a `write_opcode` there, that is the word written. -/
def Obligations.WriteOpcodeChecksThenWrites : Prop :=
  ∀ (s : State) (op a : Nat),
    (a % 0x1000 % 2 = 1 → hostWriteOpcode op a s = .error .addressValueIsNotEven) ∧
    (a % 0x1000 % 2 = 0 → a % 0x1000 < 0x200 → hostWriteOpcode op a s = .error .addressOutOfRange) ∧
    (a % 0x1000 % 2 = 0 → 0x200 ≤ a % 0x1000 → Memory.wf s.config s.mem →
      ∃ t, hostWriteOpcode op a s = .ok t ∧ t = { s with mem := t.mem } ∧
        (t.readByte a).toNat = op / 0x100 % 0x100 ∧ (t.readByte (a + 1)).toNat = op % 0x100 ∧
        (∀ b, b % 0x1000 ≠ a % 0x1000 → b % 0x1000 ≠ a % 0x1000 + 1 → t.readByte b = s.readByte b) ∧
        hostReadOpcode a t = .ok (BitVec.ofNat 16 op)) ∧
    (a % 0x1000 % 2 = 1 → hostReadOpcode a s = .error .addressValueIsNotEven) ∧
    (a % 0x1000 % 2 = 0 → ∃ w, hostReadOpcode a s = .ok w ∧
      w.toNat = (s.readByte (a % 0x1000)).toNat * 0x100 + (s.readByte (a % 0x1000 + 1)).toNat)

/-- R63: `load` of too many bytes raises AddressOutOfRange; otherwise it resets and copies the bytes to 0x200 and on. -/
def Obligations.LoadResetsThenCopies : Prop :=
  ∀ (s : State) (bytes : List Byte),
    (3584 < bytes.length → (hostLoad bytes s).1 = some .addressOutOfRange) ∧
    (bytes.length ≤ 3584 → ∃ t, hostLoad bytes s = (none, t) ∧ t = { hostReset s with mem := t.mem } ∧
      (∀ k (h : k < bytes.length), t.readByte (0x200 + k) = bytes[k]) ∧
      ∀ a, a < 0x200 ∨ 0x200 + bytes.length ≤ a ∧ a < 0x1000 → t.readByte a = (hostReset s).readByte a)

/-- A failed load (D13; log 6): the fault is recorded and no step is admitted. -/
def Obligations.FailedLoadStopsTheMachine : Prop :=
  ∀ (s : State) (bytes : List Byte), 3584 < bytes.length →
    step (hostLoad bytes s).2 = .fault .addressOutOfRange

/-- R40: reset gives every element its value, whatever the state was. -/
def Obligations.ResetGivesEveryElementItsValue : Prop :=
  ∀ s : State,
    (∀ a (h : a < 80), (hostReset s).readByte a = s.config.fontData[a]) ∧
    (∀ a, 0x050 ≤ a → a < 0x1000 → (hostReset s).readByte a = 0) ∧
    (∀ r, (hostReset s).reg r = 0) ∧ (hostReset s).i = 0 ∧ (hostReset s).pc = 0x200 ∧
    (∀ k : Fin 16, (hostReset s).stack[k] = 0) ∧ (hostReset s).sp = -1 ∧
    (hostReset s).delayTimer = 0 ∧ (hostReset s).soundTimer = 0 ∧
    (∀ row col, pixel (hostReset s).fb row col = false) ∧ (∀ k : Key, (hostReset s).keys[k] = false) ∧
    (hostReset s).redraw = false ∧ (hostReset s).fault = none ∧ hostReset State.reset = State.reset

/-- 60_exceptions.md, `set_key`: it sets the latch of its key and nothing else, also while a fault is recorded (log 20). The
latch then stays: a step keeps every latch, and so does every transaction but a reset, a load and a `set_key` for the same
key. Reset releases every latch. -/
def Obligations.SetKeySetsOneLatch : Prop :=
  ∀ (s : State) (k : Key) (p : Bool),
    (∀ j : Key, (setKey k p s).keys[j] = if j = k then p else s.keys[j]) ∧
    setKey k p s = { s with keys := (setKey k p s).keys } ∧ (∀ t, step s = .next t → t.keys = s.keys) ∧
    (∀ x : Transaction, x ≠ .reset → (∀ bytes, x ≠ .load bytes) → (∀ q, x ≠ .setKey k q) →
      (applyTransaction x s).keys[k] = s.keys[k]) ∧
    ∀ j : Key, (hostReset s).keys[j] = false

/-! ## Control flow -/

/-- 40_control_flow.md, CALL: it pushes the address of the next instruction and jumps; on a full stack, and with a corrupted
stack pointer, it raises StackPointerOutOfRange and writes nothing (D6, D8; log 10, log 15). -/
def Obligations.CallPushesAndJumps : Prop :=
  ∀ (nnn : Addr) (s : State),
    (-1 ≤ s.sp → s.sp ≤ 14 → ∃ t, exec (.call nnn) s = .next t ∧ t.pc.toNat = nnn.toNat ∧ t.sp = s.sp + 1 ∧
      (∀ k : Fin 16, t.stack[k] = if (k.val : Int) = s.sp + 1 then s.pc else s.stack[k]) ∧ t.v = s.v ∧
      t.fault = s.fault) ∧
    (s.sp < -1 ∨ 15 ≤ s.sp → exec (.call nnn) s = .next { s with fault := some .stackPointerOutOfRange })

/-- 40_control_flow.md, RET: pc becomes the top entry and sp falls by one, the entry kept; on an empty stack, and with a
corrupted stack pointer, it raises StackPointerOutOfRange and writes nothing (D6, D7; log 10, log 15). -/
def Obligations.ReturnPopsThePc : Prop :=
  ∀ (x : Reg) (s : State),
    (∀ k : Fin 16, s.sp = k.val → ∃ t, exec (.ret x) s = .next t ∧ t.pc = s.stack[k] ∧ t.sp = s.sp - 1 ∧
      t.stack = s.stack ∧ t.v = s.v ∧ t.fault = s.fault) ∧
    (s.sp < 0 ∨ 15 < s.sp → exec (.ret x) s = .next { s with fault := some .stackPointerOutOfRange })

/-- 40_control_flow.md, JP and JP V0: the two jumps, for every target: the 12-bit address unchanged, and the exact unmasked
sum with V0. A target that is odd or out of range is written too, and the next cycle faults (D4; log 9). -/
def Obligations.JumpsSetThePc : Prop :=
  ∀ (nnn : Addr) (s : State),
    decodeWord (BitVec.ofNat 16 (0x1000 + nnn.toNat)) = .ok (.jp nnn) ∧
    decodeWord (BitVec.ofNat 16 (0xB000 + nnn.toNat)) = .ok (.jpV0 nnn) ∧
    (∃ t, exec (.jp nnn) s = .next t ∧ t.pc.toNat = nnn.toNat ∧ t.v = s.v ∧ t.fault = s.fault ∧
      (s.fault = none → -1 ≤ s.sp → s.sp ≤ 15 → nnn.toNat % 2 = 1 →
        ∃ u, step t = .next u ∧ u.fault = some .addressValueIsNotEven)) ∧
    (∃ t, exec (.jpV0 nnn) s = .next t ∧ t.pc.toNat = (s.reg 0).toNat + nnn.toNat ∧ t.v = s.v ∧ t.fault = s.fault ∧
      (s.fault = none → 0x1000 ≤ (s.reg 0).toNat + nnn.toNat →
        step t = .next { t with fault := some .programCounterOutOfRange }) ∧
      (s.fault = none → -1 ≤ s.sp → s.sp ≤ 15 → (s.reg 0).toNat + nnn.toNat < 0x1000 →
        ((s.reg 0).toNat + nnn.toNat) % 2 = 1 → ∃ u, step t = .next u ∧ u.fault = some .addressValueIsNotEven))

/-- R103, R104: the skips on an immediate byte; the skip is not masked, and past 0xFFF the next cycle faults. -/
def Obligations.ImmediateSkips : Prop :=
  ∀ (x : Reg) (nn : Byte) (s : State),
    decodeWord (BitVec.ofNat 16 (0x3000 + x.val * 0x100 + nn.toNat)) = .ok (.seImm x nn) ∧
    decodeWord (BitVec.ofNat 16 (0x4000 + x.val * 0x100 + nn.toNat)) = .ok (.sneImm x nn) ∧
    (∃ t, exec (.seImm x nn) s = .next t ∧ t.pc = (if s.reg x = nn then s.pc + 2 else s.pc) ∧ t.v = s.v ∧
      t.fault = s.fault ∧ (s.fault = none → 0x1000 ≤ t.pc.toNat →
        step t = .next { t with fault := some .programCounterOutOfRange })) ∧
    (∃ t, exec (.sneImm x nn) s = .next t ∧ t.pc = (if s.reg x ≠ nn then s.pc + 2 else s.pc) ∧ t.v = s.v ∧
      t.fault = s.fault ∧ (s.fault = none → 0x1000 ≤ t.pc.toNat →
        step t = .next { t with fault := some .programCounterOutOfRange }))

/-- 40_control_flow.md, 5xy0 and 9xy0: the skips on two registers, for every value of the ignored nibble (D16; log 13). -/
def Obligations.RegisterSkips : Prop :=
  ∀ (x y : Reg) (n : Nibble) (s : State),
    decodeWord (BitVec.ofNat 16 (0x5000 + x.val * 0x100 + y.val * 0x10 + n.toNat)) = .ok (.seReg x y n) ∧
    decodeWord (BitVec.ofNat 16 (0x9000 + x.val * 0x100 + y.val * 0x10 + n.toNat)) = .ok (.sneReg x y n) ∧
    (∃ t, exec (.seReg x y n) s = .next t ∧ t.pc = (if s.reg x = s.reg y then s.pc + 2 else s.pc) ∧ t.v = s.v ∧
      t.fault = s.fault) ∧
    (∃ t, exec (.sneReg x y n) s = .next t ∧ t.pc = (if s.reg x ≠ s.reg y then s.pc + 2 else s.pc) ∧ t.v = s.v ∧
      t.fault = s.fault)

/-! ## Register loads and the ALU -/

/-- R120, R121: load and add immediate; the sum wraps and VF is kept unless it is the destination. -/
def Obligations.ImmediateLoadAndAdd : Prop :=
  ∀ (x : Reg) (nn : Byte) (s : State),
    decodeWord (BitVec.ofNat 16 (0x6000 + x.val * 0x100 + nn.toNat)) = .ok (.ldImm x nn) ∧
    decodeWord (BitVec.ofNat 16 (0x7000 + x.val * 0x100 + nn.toNat)) = .ok (.addImm x nn) ∧
    (∃ t, exec (.ldImm x nn) s = .next t ∧ t.reg x = nn ∧ (x ≠ VF → t.reg VF = s.reg VF) ∧ t.fault = s.fault) ∧
    (∃ t, exec (.addImm x nn) s = .next t ∧ (t.reg x).toNat = ((s.reg x).toNat + nn.toNat) % 256 ∧
      (x ≠ VF → t.reg VF = s.reg VF) ∧ t.fault = s.fault)

/-- 41_alu.md, 8xy0 to 8xy3: copy, or, and, exclusive or; VF is not reset (D3; log 8). -/
def Obligations.CopyAndBitwise : Prop :=
  ∀ (x y : Reg) (s : State),
    (∀ p ∈ [(0, Instr.ldReg x y, s.reg y), (1, .orReg x y, s.reg x ||| s.reg y), (2, .andReg x y, s.reg x &&& s.reg y),
        (3, .xorReg x y, s.reg x ^^^ s.reg y)],
      decodeWord (BitVec.ofNat 16 (0x8000 + x.val * 0x100 + y.val * 0x10 + p.1)) = .ok p.2.1 ∧
      ∃ t, exec p.2.1 s = .next t ∧ t.reg x = p.2.2 ∧ (x ≠ VF → t.reg VF = s.reg VF) ∧ t.fault = s.fault)

/-- 41_alu.md, 8xy4, with VF as an operand too (D2; log 7): V[x] is the sum of the old operands, and VF is the carry unless
VF is itself the destination, where the sum overwrites it. -/
def Obligations.AddWithCarry : Prop :=
  ∀ (x y : Reg) (s : State), ∃ t, exec (.addReg x y) s = .next t ∧
    (t.reg x).toNat = ((s.reg x).toNat + (s.reg y).toNat) % 256 ∧
    (x ≠ VF → t.reg VF = if (s.reg x).toNat + (s.reg y).toNat > 255 then 1 else 0) ∧ t.fault = s.fault

/-- 41_alu.md, 8xy5, the closed forms that the statement order gives (D2; log 7). -/
def Obligations.SubtractClosedForms : Prop :=
  ∀ (x y : Reg) (s : State), ∃ t, exec (.sub x y) s = .next t ∧ t.fault = s.fault ∧
    (x ≠ VF → t.reg VF = if (s.reg x).toNat > (s.reg y).toNat then 1 else 0) ∧
    (x ≠ VF → y ≠ VF → (t.reg x).toNat = (256 + (s.reg x).toNat - (s.reg y).toNat) % 256) ∧
    (x ≠ VF → y = VF →
      (t.reg x).toNat = (256 + (s.reg x).toNat - if (s.reg x).toNat > (s.reg VF).toNat then 1 else 0) % 256) ∧
    (x = VF → y ≠ VF →
      (t.reg VF).toNat = (256 + (if (s.reg VF).toNat > (s.reg y).toNat then 1 else 0) - (s.reg y).toNat) % 256) ∧
    (x = VF → y = VF → t.reg VF = 0)

/-- 41_alu.md, 8xy7, the closed forms that the statement order gives (D2; log 7). -/
def Obligations.ReverseSubtractClosedForms : Prop :=
  ∀ (x y : Reg) (s : State), ∃ t, exec (.subn x y) s = .next t ∧ t.fault = s.fault ∧
    (x ≠ VF → t.reg VF = if (s.reg y).toNat > (s.reg x).toNat then 1 else 0) ∧
    (x ≠ VF → y ≠ VF → (t.reg x).toNat = (256 + (s.reg y).toNat - (s.reg x).toNat) % 256) ∧
    (x ≠ VF → y = VF →
      (t.reg x).toNat = (256 + (if (s.reg VF).toNat > (s.reg x).toNat then 1 else 0) - (s.reg x).toNat) % 256) ∧
    (x = VF → y ≠ VF →
      (t.reg VF).toNat = (256 + (s.reg y).toNat - if (s.reg y).toNat > (s.reg VF).toNat then 1 else 0) % 256) ∧
    (x = VF → y = VF → t.reg VF = 0)

/-- 41_alu.md, 8xy6 and 8xyE, whatever `y` is (D2, D16; log 7, log 13): the shifts by one place of V[x]; the bit shifted
out goes to VF as 0 or 1 from the right and as 0 or 0x80 from the left; with x = F, VF becomes 0. -/
def Obligations.ShiftsByOnePlace : Prop :=
  ∀ (x y : Reg) (s : State),
    (∃ t, exec (.shr x y) s = .next t ∧ t.fault = s.fault ∧
      (x ≠ VF → (t.reg x).toNat = (s.reg x).toNat / 2 ∧ (t.reg VF).toNat = (s.reg x).toNat % 2) ∧
      (x = VF → t.reg VF = 0)) ∧
    (∃ t, exec (.shl x y) s = .next t ∧ t.fault = s.fault ∧
      (x ≠ VF → (t.reg x).toNat = (s.reg x).toNat * 2 % 256 ∧
        t.reg VF = if 128 ≤ (s.reg x).toNat then 0x80 else 0) ∧
      (x = VF → t.reg VF = 0))

/-- 41_alu.md, Cxnn (D14; log 4): V[x] gets the next draw of the free stream under the mask, whatever the draw is, and one
draw is taken. -/
def Obligations.RandomTakesOneDrawUnderTheMask : Prop :=
  ∀ (x : Reg) (nn : Byte) (s : State), ∃ t, exec (.rnd x nn) s = .next t ∧ t.reg x = Config.rnd s.draws &&& nn ∧
    (nn = 0 → t.reg x = 0) ∧ (x ≠ VF → t.reg VF = s.reg VF) ∧ t.draws = s.draws + 1 ∧ t.fault = s.fault

/-! ## The index register and memory transfers -/

/-- R140, R141, R142: the three writers of I; the sum wraps at 16 bits, not 12, and no flag is set. -/
def Obligations.IndexLoads : Prop :=
  ∀ (nnn : Addr) (x : Reg) (s : State),
    decodeWord (BitVec.ofNat 16 (0xA000 + nnn.toNat)) = .ok (.ldI nnn) ∧
    decodeWord (BitVec.ofNat 16 (0xF01E + x.val * 0x100)) = .ok (.addI x) ∧
    decodeWord (BitVec.ofNat 16 (0xF029 + x.val * 0x100)) = .ok (.ldF x) ∧
    (∃ t, exec (.ldI nnn) s = .next t ∧ t.i.toNat = nnn.toNat ∧ t.v = s.v ∧ t.fault = s.fault) ∧
    (∃ t, exec (.addI x) s = .next t ∧ t.i.toNat = (s.i.toNat + (s.reg x).toNat) % 0x10000 ∧ t.v = s.v ∧
      t.fault = s.fault) ∧
    (∃ t, exec (.ldF x) s = .next t ∧ t.i.toNat = (s.reg x).toNat % 16 * 5 ∧ t.v = s.v ∧ t.fault = s.fault)

/-- 42_index_memory.md, Fx33 (D12; log 3): where the policy lets it store, the three digits of V[x] are in memory at I,
I + 1 and I + 2, wrapping at 0x1000, and I is unchanged. -/
def Obligations.BcdStoresTheDecimalDigits : Prop :=
  ∀ (x : Reg) (s : State), Memory.wf s.config s.mem →
    (s.config.fontStorePolicy = .writeThrough ∨ ∀ k, k < 3 → 0x04F < (s.i.toNat + k) % 0x1000) →
    ∃ t, exec (.ldB x) s = .next t ∧
      (t.readByte ((s.i.toNat + 0) % 0x1000)).toNat = (s.reg x).toNat / 100 ∧
      (t.readByte ((s.i.toNat + 1) % 0x1000)).toNat = (s.reg x).toNat / 10 % 10 ∧
      (t.readByte ((s.i.toNat + 2) % 0x1000)).toNat = (s.reg x).toNat % 10 ∧
      t.i = s.i ∧ t.v = s.v ∧ t.fault = s.fault

/-- 42_index_memory.md, Fx55 (D12; log 3): where the policy lets it store, V[0] to V[x] are in memory from I on, wrapping
at 0x1000, and I is unchanged. -/
def Obligations.RegistersAreStoredFromIndex : Prop :=
  ∀ (x : Reg) (s : State), Memory.wf s.config s.mem →
    (s.config.fontStorePolicy = .writeThrough ∨ ∀ k, k ≤ x.val → 0x04F < (s.i.toNat + k) % 0x1000) →
    ∃ t, exec (.ldMemFromRegs x) s = .next t ∧
      (∀ k : Reg, k ≤ x → t.readByte ((s.i.toNat + k.val) % 0x1000) = s.reg k) ∧
      t.i = s.i ∧ t.v = s.v ∧ t.fault = s.fault

/-- 42_index_memory.md, FONT_STORE_POLICY = fault (D12; log 3): a store with any target in 0x000–0x04F raises
FontRegionWrite and stores nothing. -/
def Obligations.FontPolicyFaultsBeforeAnyStore : Prop :=
  ∀ (x : Reg) (s : State), s.config.fontStorePolicy = .fault →
    ((∃ k, k < 3 ∧ (s.i.toNat + k) % 0x1000 ≤ 0x04F) →
      exec (.ldB x) s = .next { s with fault := some .fontRegionWrite }) ∧
    ((∃ k, k ≤ x.val ∧ (s.i.toNat + k) % 0x1000 ≤ 0x04F) →
      exec (.ldMemFromRegs x) s = .next { s with fault := some .fontRegionWrite })

/-- R145: V[0] to V[x] are loaded from memory at I on, the registers above x are kept, I and memory are unchanged. -/
def Obligations.RegistersAreLoadedFromIndex : Prop :=
  ∀ (x : Reg) (s : State),
    decodeWord (BitVec.ofNat 16 (0xF065 + x.val * 0x100)) = .ok (.ldRegsFromMem x) ∧
    ∃ t, exec (.ldRegsFromMem x) s = .next t ∧
      (∀ k : Reg, k ≤ x → t.reg k = s.readByte ((s.i.toNat + k.val) % 0x1000)) ∧
      (∀ k : Reg, x < k → t.reg k = s.reg k) ∧ t.i = s.i ∧ (∀ a, t.readByte a = s.readByte a) ∧ t.fault = s.fault

/-! ## Display -/

/-- 43_display.md, 00E0: every pixel becomes 0; VF and the redraw latch are not changed; every value of the ignored field is
a clear screen (D16; log 13). -/
def Obligations.ClearScreenClearsEveryPixel : Prop :=
  ∀ (x : Reg) (s : State),
    decodeWord (BitVec.ofNat 16 (0x00E0 + x.val * 0x100)) = .ok (.cls x) ∧
    ∃ t, exec (.cls x) s = .next t ∧ (∀ row col, pixel t.fb row col = false) ∧ t.v = s.v ∧ t.redraw = s.redraw ∧
      t.fault = s.fault

/-- 43_display.md, Dxyn, pixel by pixel (D10, D17; log 12, log 14): each pixel is the old one XOR the sprite's coverage of
it, both axes wrapping; VF is 1 exactly if a covered pixel was 1; the latch is set. The origin is the old V[x], V[y], VF
included. -/
def Obligations.DrawIsPointwiseXor : Prop :=
  ∀ (x y : Reg) (n : Nibble) (s : State), ∃ t, exec (.drw x y n) s = .next t ∧
    (∀ row col, pixel t.fb row col = (pixel s.fb row col ^^
      spriteCovers (fun r => s.readByte ((s.i.toNat + r) % 0x1000)) (s.reg x).toNat (s.reg y).toNat n.toNat row col)) ∧
    ((∃ row col, pixel s.fb row col = true ∧
      spriteCovers (fun r => s.readByte ((s.i.toNat + r) % 0x1000)) (s.reg x).toNat (s.reg y).toNat n.toNat row col =
        true) → t.reg VF = 1) ∧
    ((∀ row col, pixel s.fb row col = true →
      spriteCovers (fun r => s.readByte ((s.i.toNat + r) % 0x1000)) (s.reg x).toNat (s.reg y).toNat n.toNat row col =
        false) → t.reg VF = 0) ∧
    t.redraw = true ∧ t.fault = s.fault

/-- 43_display.md, the collision flag (derived there): drawing the same sprite twice at the same place restores the frame
buffer, and if the sprite covers any pixel one of the two draws reports a collision, the second on a clear background (log
12). The registers are put back between the draws, so that the place is the same when x or y is VF too. -/
def Obligations.DrawingTwiceRestoresTheScreen : Prop :=
  ∀ (x y : Reg) (n : Nibble) (s : State), ∃ t u, exec (.drw x y n) s = .next t ∧
    exec (.drw x y n) { t with v := s.v } = .next u ∧ u.fb = s.fb ∧
    ((∃ row col, spriteCovers (fun r => s.readByte ((s.i.toNat + r) % 0x1000)) (s.reg x).toNat (s.reg y).toNat n.toNat
      row col = true) → t.reg VF = 1 ∨ u.reg VF = 1) ∧
    ((∀ row col, pixel s.fb row col = false) → t.reg VF = 0 ∧
      (u.reg VF = 1 ↔ ∃ row col, pixel t.fb row col = true))

/-! ## Keys and timers -/

/-- R160, R161: the key skips test the latch of V[x] mod 16 and do not change it. -/
def Obligations.KeySkips : Prop :=
  ∀ (x : Reg) (s : State),
    decodeWord (BitVec.ofNat 16 (0xE09E + x.val * 0x100)) = .ok (.skp x) ∧
    decodeWord (BitVec.ofNat 16 (0xE0A1 + x.val * 0x100)) = .ok (.sknp x) ∧
    (∃ t, exec (.skp x) s = .next t ∧
      t.pc = (if s.keys[Fin.ofNat 16 (s.reg x).toNat] = true then s.pc + 2 else s.pc) ∧ t.keys = s.keys ∧ t.v = s.v ∧
      t.fault = s.fault) ∧
    (∃ t, exec (.sknp x) s = .next t ∧
      t.pc = (if s.keys[Fin.ofNat 16 (s.reg x).toNat] = false then s.pc + 2 else s.pc) ∧ t.keys = s.keys ∧ t.v = s.v ∧
      t.fault = s.fault)

/-- 44_keys_timers.md, Fx0A (D9; log 11): the lowest pressed key's index, or pc back by 2 with no register written. -/
def Obligations.KeyWaitTakesTheLowestKeyOrRewinds : Prop :=
  ∀ (x : Reg) (s : State),
    (∀ k : Key, s.keys[k] = true → (∀ j : Key, j < k → s.keys[j] = false) →
      ∃ t, exec (.ldVxK x) s = .next t ∧ (t.reg x).toNat = k.val ∧ t.pc = s.pc ∧ t.fault = s.fault) ∧
    ((∀ k : Key, s.keys[k] = false) →
      ∃ t, exec (.ldVxK x) s = .next t ∧ t.pc = s.pc - 2 ∧ t.v = s.v ∧ t.fault = s.fault)

/-- 44_keys_timers.md, Fx07, Fx15 and Fx18: what each reads and writes. -/
def Obligations.TimerTransfers : Prop :=
  ∀ (x : Reg) (s : State),
    (∃ t, exec (.ldVxDt x) s = .next t ∧ t.reg x = s.delayTimer ∧ t.delayTimer = s.delayTimer ∧ t.fault = s.fault) ∧
    (∃ t, exec (.ldDtVx x) s = .next t ∧ t.delayTimer = s.reg x ∧ t.v = s.v ∧ t.fault = s.fault) ∧
    (∃ t, exec (.ldStVx x) s = .next t ∧ t.soundTimer = s.reg x ∧ t.v = s.v ∧ t.fault = s.fault)

/-! ## Frames (00_scope.md, the frame rule: D3; log 8) -/

/-- Loads and operations on registers change their destination alone; the five ALU instructions that set the flag change
their destination and VF alone. -/
def Obligations.FrameOfRegisterOperations : Prop :=
  ∀ (x y : Reg) (nn : Byte) (s t : State),
    (∀ i ∈ [Instr.ldImm x nn, .addImm x nn, .ldReg x y, .orReg x y, .andReg x y, .xorReg x y, .ldVxDt x],
      exec i s = .next t → Frame { regs := [x] } s t) ∧
    (∀ i ∈ [Instr.addReg x y, .sub x y, .shr x y, .subn x y, .shl x y],
      exec i s = .next t → Frame { regs := [x, VF] } s t)

/-- Jumps and skips change pc alone; 2nnn and 00EE, where they do not fault, change pc, the stack and its pointer. -/
def Obligations.FrameOfControlTransfers : Prop :=
  ∀ (x y : Reg) (n : Nibble) (nn : Byte) (nnn : Addr) (s t : State),
    (∀ i ∈ [Instr.jp nnn, .jpV0 nnn, .seImm x nn, .sneImm x nn, .seReg x y n, .sneReg x y n, .skp x, .sknp x],
      exec i s = .next t → Frame { pc := true } s t) ∧
    (-1 ≤ s.sp → s.sp ≤ 14 → exec (.call nnn) s = .next t → Frame { pc := true, stack := true } s t) ∧
    (0 ≤ s.sp → s.sp ≤ 15 → exec (.ret x) s = .next t → Frame { pc := true, stack := true } s t)

/-- The index, timer, random and key-wait instructions change what they write alone. -/
def Obligations.FrameOfIndexTimerKeyAndRandom : Prop :=
  ∀ (x : Reg) (nn : Byte) (nnn : Addr) (s t : State),
    (∀ i ∈ [Instr.ldI nnn, .addI x, .ldF x], exec i s = .next t → Frame { index := true } s t) ∧
    (exec (.ldDtVx x) s = .next t → Frame { delay := true } s t) ∧
    (exec (.ldStVx x) s = .next t → Frame { sound := true } s t) ∧
    (exec (.rnd x nn) s = .next t → Frame { regs := [x], draws := true } s t) ∧
    (exec (.ldVxK x) s = .next t → Frame { regs := [x], pc := true } s t)

/-- Fx33 and Fx55, where the policy lets them store, change the cells they store to alone; Fx65 changes V[0] to V[x]
alone, and no memory. -/
def Obligations.FrameOfMemoryTransfers : Prop :=
  ∀ (x : Reg) (s t : State),
    (s.config.fontStorePolicy = .writeThrough ∨ (∀ k, k < 3 → 0x04F < effAddr s k) → exec (.ldB x) s = .next t →
      Frame { cells := (List.range 3).map (effAddr s) } s t) ∧
    (s.config.fontStorePolicy = .writeThrough ∨ (∀ k, k ≤ x.val → 0x04F < effAddr s k) →
      exec (.ldMemFromRegs x) s = .next t → Frame { cells := (List.range (x.val + 1)).map (effAddr s) } s t) ∧
    (exec (.ldRegsFromMem x) s = .next t → Frame { regs := (List.finRange 16).filter (fun k => k ≤ x) } s t)

/-- 00E0 changes the frame buffer alone; Dxyn the frame buffer, VF and the redraw latch. -/
def Obligations.FrameOfDisplay : Prop :=
  ∀ (x y : Reg) (n : Nibble) (s t : State),
    (exec (.cls x) s = .next t → Frame { fb := true } s t) ∧
    (exec (.drw x y n) s = .next t → Frame { regs := [VF], fb := true, redraw := true } s t)

/-! ## Runs of many cycles (70_reset_and_hazards.md, the end of a run: D19; log 19) -/

/-- 44_keys_timers.md and U8 (D9; log 11, log 19): under any schedule in which the host only reads, while no key is pressed,
a waiting Fx0A is re-executed in every cycle without a fault; after the schedule's cycles pc and the registers are as
before, each timer has fallen by as many, not below 0, and the redraw latch is clear. A key then pressed between two cycles
is taken in the next one. The wait is the same as a run of steps alone. -/
def Obligations.KeyWaitCompletesEveryCycle : Prop :=
  ∀ (h : Schedule) (x : Reg) (s : State), Admitted s → s.pc.toNat % 2 = 0 → decodeWord (wordAtPc s) = .ok (.ldVxK x) →
    (∀ k : Key, s.keys[k] = false) → OnlyReads h →
    (∃ t, SafeRun h s t ∧ Sys2Proof.core.run h.length s = .next t ∧
      t.delayTimer.toNat = s.delayTimer.toNat - h.length ∧ t.soundTimer.toNat = s.soundTimer.toNat - h.length ∧
      t = { s with
        delayTimer := t.delayTimer, soundTimer := t.soundTimer, redraw := if h.length = 0 then s.redraw else false }) ∧
    ∀ k : Key, ∃ t, SafeRun (h ++ [[.setKey k true]]) s t ∧ (t.reg x).toNat = k.val ∧ t.pc = s.pc + 2 ∧
      t.keys[k] = true ∧ t.delayTimer.toNat = s.delayTimer.toNat - (h.length + 1)

/-- 70_reset_and_hazards.md, the halt idiom (D19; log 19): under any schedule in which the host only reads, a jump to itself
is re-executed in every cycle without a fault and changes only the timers and the redraw latch; so does a run of steps
alone. -/
def Obligations.JumpToItselfHolds : Prop :=
  ∀ (h : Schedule) (nnn : Addr) (s : State), Admitted s → s.pc.toNat % 2 = 0 → decodeWord (wordAtPc s) = .ok (.jp nnn) →
    nnn.toNat = s.pc.toNat → OnlyReads h →
    ∃ t, SafeRun h s t ∧ Sys2Proof.core.run h.length s = .next t ∧
      t.delayTimer.toNat = s.delayTimer.toNat - h.length ∧ t.soundTimer.toNat = s.soundTimer.toNat - h.length ∧
      t = { s with
        delayTimer := t.delayTimer, soundTimer := t.soundTimer, redraw := if h.length = 0 then s.redraw else false }
end

