-- ==== Sys2Proof/Laws/Decode.lean ====
section
/-! SUPPORT. The fields of a packed word are the fields it was packed from, and a word is packed from its fields
(30_encoding.md R71, R72). -/

namespace Sys2Proof

theorem fieldG_toNat (w : Word) : (fieldG w).toNat = w.toNat / 4096 % 16 := by
  simp [fieldG, Nat.shiftRight_eq_div_pow]

theorem fieldX_val (w : Word) : (fieldX w).val = w.toNat / 256 % 16 := by
  simp [fieldX, Nat.shiftRight_eq_div_pow]

theorem fieldY_val (w : Word) : (fieldY w).val = w.toNat / 16 % 16 := by
  simp [fieldY, Nat.shiftRight_eq_div_pow]

theorem fieldN_toNat (w : Word) : (fieldN w).toNat = w.toNat % 16 := by simp [fieldN]

theorem fieldNN_toNat (w : Word) : (fieldNN w).toNat = w.toNat % 256 := by simp [fieldNN]

theorem fieldNNN_toNat (w : Word) : (fieldNNN w).toNat = w.toNat % 4096 := by simp [fieldNNN]

@[simp] theorem regBits_toNat (x : Reg) : (regBits x).toNat = x.val := rfl

/-- Appending fields is a sum of their weights. -/
theorem append_toNat {m k : Nat} (a : BitVec m) (b : BitVec k) : (a ++ b).toNat = a.toNat * 2 ^ k + b.toNat := by
  rw [BitVec.toNat_append, ← Nat.shiftLeft_add_eq_or_of_lt b.isLt, Nat.shiftLeft_eq]

theorem packN12_toNat (g : Nibble) (nnn : Addr) : (packN12 g nnn).toNat = g.toNat * 4096 + nnn.toNat := by
  exact append_toNat g nnn

theorem packXNN_toNat (g : Nibble) (x : Reg) (nn : Byte) :
    (packXNN g x nn).toNat = g.toNat * 4096 + x.val * 256 + nn.toNat := by
  simp only [packXNN, append_toNat, regBits_toNat]; omega

theorem packXYN_toNat (g : Nibble) (x y : Reg) (n : Nibble) :
    (packXYN g x y n).toNat = g.toNat * 4096 + x.val * 256 + y.val * 16 + n.toNat := by
  simp only [packXYN, append_toNat, regBits_toNat]; omega

/-! ## The fields of a packed word -/

@[simp] theorem fieldG_packN12 (g : Nibble) (nnn : Addr) : fieldG (packN12 g nnn) = g := by
  apply BitVec.eq_of_toNat_eq; rw [fieldG_toNat, packN12_toNat]; have := nnn.isLt; omega

@[simp] theorem fieldNNN_packN12 (g : Nibble) (nnn : Addr) : fieldNNN (packN12 g nnn) = nnn := by
  apply BitVec.eq_of_toNat_eq; rw [fieldNNN_toNat, packN12_toNat]; have := nnn.isLt; omega

@[simp] theorem fieldG_packXNN (g : Nibble) (x : Reg) (nn : Byte) : fieldG (packXNN g x nn) = g := by
  apply BitVec.eq_of_toNat_eq; rw [fieldG_toNat, packXNN_toNat]; have := nn.isLt; omega

@[simp] theorem fieldX_packXNN (g : Nibble) (x : Reg) (nn : Byte) : fieldX (packXNN g x nn) = x := by
  apply Fin.ext; rw [fieldX_val, packXNN_toNat]; have := nn.isLt; omega

@[simp] theorem fieldNN_packXNN (g : Nibble) (x : Reg) (nn : Byte) : fieldNN (packXNN g x nn) = nn := by
  apply BitVec.eq_of_toNat_eq; rw [fieldNN_toNat, packXNN_toNat]; have := nn.isLt; omega

@[simp] theorem fieldG_packXYN (g : Nibble) (x y : Reg) (n : Nibble) : fieldG (packXYN g x y n) = g := by
  apply BitVec.eq_of_toNat_eq; rw [fieldG_toNat, packXYN_toNat]; have := n.isLt; omega

@[simp] theorem fieldX_packXYN (g : Nibble) (x y : Reg) (n : Nibble) : fieldX (packXYN g x y n) = x := by
  apply Fin.ext; rw [fieldX_val, packXYN_toNat]; have := n.isLt; omega

@[simp] theorem fieldY_packXYN (g : Nibble) (x y : Reg) (n : Nibble) : fieldY (packXYN g x y n) = y := by
  apply Fin.ext; rw [fieldY_val, packXYN_toNat]; have := n.isLt; omega

@[simp] theorem fieldN_packXYN (g : Nibble) (x y : Reg) (n : Nibble) : fieldN (packXYN g x y n) = n := by
  apply BitVec.eq_of_toNat_eq; rw [fieldN_toNat, packXYN_toNat]; have := n.isLt; omega

/-! ## A word from its fields -/

theorem packN12_fields (w : Word) : packN12 (fieldG w) (fieldNNN w) = w := by
  apply BitVec.eq_of_toNat_eq; rw [packN12_toNat, fieldG_toNat, fieldNNN_toNat]; have := w.isLt; omega

theorem packXNN_fields (w : Word) : packXNN (fieldG w) (fieldX w) (fieldNN w) = w := by
  apply BitVec.eq_of_toNat_eq; rw [packXNN_toNat, fieldG_toNat, fieldX_val, fieldNN_toNat]; have := w.isLt; omega

theorem packXYN_fields (w : Word) : packXYN (fieldG w) (fieldX w) (fieldY w) (fieldN w) = w := by
  apply BitVec.eq_of_toNat_eq; rw [packXYN_toNat, fieldG_toNat, fieldX_val, fieldY_val, fieldN_toNat]
  have := w.isLt; omega

/-! ## Byte order (R59) -/

@[simp] theorem wordOfBytes_bytes (w : Word) : wordOfBytes (highByte w) (lowByte w) = w := by
  apply BitVec.eq_of_toNat_eq
  rw [wordOfBytes, show ((highByte w ++ lowByte w : BitVec (8 + 8)).toNat = _) from append_toNat _ _]
  simp only [highByte, lowByte, BitVec.extractLsb'_toNat, Nat.shiftRight_eq_div_pow]
  have := w.isLt; omega

@[simp] theorem highByte_wordOfBytes (hi lo : Byte) : highByte (wordOfBytes hi lo) = hi := by
  apply BitVec.eq_of_toNat_eq
  simp only [highByte, wordOfBytes, BitVec.extractLsb'_toNat, append_toNat, Nat.shiftRight_eq_div_pow]
  have := hi.isLt; have := lo.isLt; omega

@[simp] theorem lowByte_wordOfBytes (hi lo : Byte) : lowByte (wordOfBytes hi lo) = lo := by
  apply BitVec.eq_of_toNat_eq
  simp only [lowByte, wordOfBytes, BitVec.extractLsb'_toNat, append_toNat, Nat.shiftRight_eq_div_pow]
  have := hi.isLt; have := lo.isLt; omega

end Sys2Proof
end

