-- ==== Sys2Proof/Laws/State.lean ====
section
/-! SUPPORT. One lemma per field per update of State, each true by rfl, so that no later proof unfolds a record update. -/

namespace Sys2Proof.Machine

@[simp] theorem State.setReg_mem (s : State) (x : Reg) (b : Byte) : (s.setReg x b).mem = s.mem := rfl
@[simp] theorem State.setReg_v (s : State) (x : Reg) (b : Byte) : (s.setReg x b).v = s.v.set x.val b x.isLt := rfl
@[simp] theorem State.setReg_i (s : State) (x : Reg) (b : Byte) : (s.setReg x b).i = s.i := rfl
@[simp] theorem State.setReg_pc (s : State) (x : Reg) (b : Byte) : (s.setReg x b).pc = s.pc := rfl
@[simp] theorem State.setReg_stack (s : State) (x : Reg) (b : Byte) : (s.setReg x b).stack = s.stack := rfl
@[simp] theorem State.setReg_sp (s : State) (x : Reg) (b : Byte) : (s.setReg x b).sp = s.sp := rfl
@[simp] theorem State.setReg_delayTimer (s : State) (x : Reg) (b : Byte) : (s.setReg x b).delayTimer = s.delayTimer := rfl
@[simp] theorem State.setReg_soundTimer (s : State) (x : Reg) (b : Byte) : (s.setReg x b).soundTimer = s.soundTimer := rfl
@[simp] theorem State.setReg_fb (s : State) (x : Reg) (b : Byte) : (s.setReg x b).fb = s.fb := rfl
@[simp] theorem State.setReg_keys (s : State) (x : Reg) (b : Byte) : (s.setReg x b).keys = s.keys := rfl
@[simp] theorem State.setReg_redraw (s : State) (x : Reg) (b : Byte) : (s.setReg x b).redraw = s.redraw := rfl
@[simp] theorem State.setReg_fault (s : State) (x : Reg) (b : Byte) : (s.setReg x b).fault = s.fault := rfl
@[simp] theorem State.setReg_config (s : State) (x : Reg) (b : Byte) : (s.setReg x b).config = s.config := rfl
@[simp] theorem State.setReg_draws (s : State) (x : Reg) (b : Byte) : (s.setReg x b).draws = s.draws := rfl

@[simp] theorem State.setIndex_mem (s : State) (a : Word) : (s.setIndex a).mem = s.mem := rfl
@[simp] theorem State.setIndex_v (s : State) (a : Word) : (s.setIndex a).v = s.v := rfl
@[simp] theorem State.setIndex_i (s : State) (a : Word) : (s.setIndex a).i = a := rfl
@[simp] theorem State.setIndex_pc (s : State) (a : Word) : (s.setIndex a).pc = s.pc := rfl
@[simp] theorem State.setIndex_stack (s : State) (a : Word) : (s.setIndex a).stack = s.stack := rfl
@[simp] theorem State.setIndex_sp (s : State) (a : Word) : (s.setIndex a).sp = s.sp := rfl
@[simp] theorem State.setIndex_delayTimer (s : State) (a : Word) : (s.setIndex a).delayTimer = s.delayTimer := rfl
@[simp] theorem State.setIndex_soundTimer (s : State) (a : Word) : (s.setIndex a).soundTimer = s.soundTimer := rfl
@[simp] theorem State.setIndex_fb (s : State) (a : Word) : (s.setIndex a).fb = s.fb := rfl
@[simp] theorem State.setIndex_keys (s : State) (a : Word) : (s.setIndex a).keys = s.keys := rfl
@[simp] theorem State.setIndex_redraw (s : State) (a : Word) : (s.setIndex a).redraw = s.redraw := rfl
@[simp] theorem State.setIndex_fault (s : State) (a : Word) : (s.setIndex a).fault = s.fault := rfl
@[simp] theorem State.setIndex_config (s : State) (a : Word) : (s.setIndex a).config = s.config := rfl
@[simp] theorem State.setIndex_draws (s : State) (a : Word) : (s.setIndex a).draws = s.draws := rfl

@[simp] theorem State.setPc_mem (s : State) (a : Word) : (s.setPc a).mem = s.mem := rfl
@[simp] theorem State.setPc_v (s : State) (a : Word) : (s.setPc a).v = s.v := rfl
@[simp] theorem State.setPc_i (s : State) (a : Word) : (s.setPc a).i = s.i := rfl
@[simp] theorem State.setPc_pc (s : State) (a : Word) : (s.setPc a).pc = a := rfl
@[simp] theorem State.setPc_stack (s : State) (a : Word) : (s.setPc a).stack = s.stack := rfl
@[simp] theorem State.setPc_sp (s : State) (a : Word) : (s.setPc a).sp = s.sp := rfl
@[simp] theorem State.setPc_delayTimer (s : State) (a : Word) : (s.setPc a).delayTimer = s.delayTimer := rfl
@[simp] theorem State.setPc_soundTimer (s : State) (a : Word) : (s.setPc a).soundTimer = s.soundTimer := rfl
@[simp] theorem State.setPc_fb (s : State) (a : Word) : (s.setPc a).fb = s.fb := rfl
@[simp] theorem State.setPc_keys (s : State) (a : Word) : (s.setPc a).keys = s.keys := rfl
@[simp] theorem State.setPc_redraw (s : State) (a : Word) : (s.setPc a).redraw = s.redraw := rfl
@[simp] theorem State.setPc_fault (s : State) (a : Word) : (s.setPc a).fault = s.fault := rfl
@[simp] theorem State.setPc_config (s : State) (a : Word) : (s.setPc a).config = s.config := rfl
@[simp] theorem State.setPc_draws (s : State) (a : Word) : (s.setPc a).draws = s.draws := rfl

@[simp] theorem State.setDelay_mem (s : State) (b : Byte) : (s.setDelay b).mem = s.mem := rfl
@[simp] theorem State.setDelay_v (s : State) (b : Byte) : (s.setDelay b).v = s.v := rfl
@[simp] theorem State.setDelay_i (s : State) (b : Byte) : (s.setDelay b).i = s.i := rfl
@[simp] theorem State.setDelay_pc (s : State) (b : Byte) : (s.setDelay b).pc = s.pc := rfl
@[simp] theorem State.setDelay_stack (s : State) (b : Byte) : (s.setDelay b).stack = s.stack := rfl
@[simp] theorem State.setDelay_sp (s : State) (b : Byte) : (s.setDelay b).sp = s.sp := rfl
@[simp] theorem State.setDelay_delayTimer (s : State) (b : Byte) : (s.setDelay b).delayTimer = b := rfl
@[simp] theorem State.setDelay_soundTimer (s : State) (b : Byte) : (s.setDelay b).soundTimer = s.soundTimer := rfl
@[simp] theorem State.setDelay_fb (s : State) (b : Byte) : (s.setDelay b).fb = s.fb := rfl
@[simp] theorem State.setDelay_keys (s : State) (b : Byte) : (s.setDelay b).keys = s.keys := rfl
@[simp] theorem State.setDelay_redraw (s : State) (b : Byte) : (s.setDelay b).redraw = s.redraw := rfl
@[simp] theorem State.setDelay_fault (s : State) (b : Byte) : (s.setDelay b).fault = s.fault := rfl
@[simp] theorem State.setDelay_config (s : State) (b : Byte) : (s.setDelay b).config = s.config := rfl
@[simp] theorem State.setDelay_draws (s : State) (b : Byte) : (s.setDelay b).draws = s.draws := rfl

@[simp] theorem State.setSound_mem (s : State) (b : Byte) : (s.setSound b).mem = s.mem := rfl
@[simp] theorem State.setSound_v (s : State) (b : Byte) : (s.setSound b).v = s.v := rfl
@[simp] theorem State.setSound_i (s : State) (b : Byte) : (s.setSound b).i = s.i := rfl
@[simp] theorem State.setSound_pc (s : State) (b : Byte) : (s.setSound b).pc = s.pc := rfl
@[simp] theorem State.setSound_stack (s : State) (b : Byte) : (s.setSound b).stack = s.stack := rfl
@[simp] theorem State.setSound_sp (s : State) (b : Byte) : (s.setSound b).sp = s.sp := rfl
@[simp] theorem State.setSound_delayTimer (s : State) (b : Byte) : (s.setSound b).delayTimer = s.delayTimer := rfl
@[simp] theorem State.setSound_soundTimer (s : State) (b : Byte) : (s.setSound b).soundTimer = b := rfl
@[simp] theorem State.setSound_fb (s : State) (b : Byte) : (s.setSound b).fb = s.fb := rfl
@[simp] theorem State.setSound_keys (s : State) (b : Byte) : (s.setSound b).keys = s.keys := rfl
@[simp] theorem State.setSound_redraw (s : State) (b : Byte) : (s.setSound b).redraw = s.redraw := rfl
@[simp] theorem State.setSound_fault (s : State) (b : Byte) : (s.setSound b).fault = s.fault := rfl
@[simp] theorem State.setSound_config (s : State) (b : Byte) : (s.setSound b).config = s.config := rfl
@[simp] theorem State.setSound_draws (s : State) (b : Byte) : (s.setSound b).draws = s.draws := rfl

@[simp] theorem State.writeByte_mem (s : State) (a : Nat) (x : Byte) : (s.writeByte a x).mem = Memory.write s.config s.mem a x := rfl
@[simp] theorem State.writeByte_v (s : State) (a : Nat) (x : Byte) : (s.writeByte a x).v = s.v := rfl
@[simp] theorem State.writeByte_i (s : State) (a : Nat) (x : Byte) : (s.writeByte a x).i = s.i := rfl
@[simp] theorem State.writeByte_pc (s : State) (a : Nat) (x : Byte) : (s.writeByte a x).pc = s.pc := rfl
@[simp] theorem State.writeByte_stack (s : State) (a : Nat) (x : Byte) : (s.writeByte a x).stack = s.stack := rfl
@[simp] theorem State.writeByte_sp (s : State) (a : Nat) (x : Byte) : (s.writeByte a x).sp = s.sp := rfl
@[simp] theorem State.writeByte_delayTimer (s : State) (a : Nat) (x : Byte) : (s.writeByte a x).delayTimer = s.delayTimer := rfl
@[simp] theorem State.writeByte_soundTimer (s : State) (a : Nat) (x : Byte) : (s.writeByte a x).soundTimer = s.soundTimer := rfl
@[simp] theorem State.writeByte_fb (s : State) (a : Nat) (x : Byte) : (s.writeByte a x).fb = s.fb := rfl
@[simp] theorem State.writeByte_keys (s : State) (a : Nat) (x : Byte) : (s.writeByte a x).keys = s.keys := rfl
@[simp] theorem State.writeByte_redraw (s : State) (a : Nat) (x : Byte) : (s.writeByte a x).redraw = s.redraw := rfl
@[simp] theorem State.writeByte_fault (s : State) (a : Nat) (x : Byte) : (s.writeByte a x).fault = s.fault := rfl
@[simp] theorem State.writeByte_config (s : State) (a : Nat) (x : Byte) : (s.writeByte a x).config = s.config := rfl
@[simp] theorem State.writeByte_draws (s : State) (a : Nat) (x : Byte) : (s.writeByte a x).draws = s.draws := rfl

@[simp] theorem State.writeBytes_mem (s : State) (a : Nat) (xs : List Byte) : (s.writeBytes a xs).mem = Memory.writeBlock s.config s.mem a xs := rfl
@[simp] theorem State.writeBytes_v (s : State) (a : Nat) (xs : List Byte) : (s.writeBytes a xs).v = s.v := rfl
@[simp] theorem State.writeBytes_i (s : State) (a : Nat) (xs : List Byte) : (s.writeBytes a xs).i = s.i := rfl
@[simp] theorem State.writeBytes_pc (s : State) (a : Nat) (xs : List Byte) : (s.writeBytes a xs).pc = s.pc := rfl
@[simp] theorem State.writeBytes_stack (s : State) (a : Nat) (xs : List Byte) : (s.writeBytes a xs).stack = s.stack := rfl
@[simp] theorem State.writeBytes_sp (s : State) (a : Nat) (xs : List Byte) : (s.writeBytes a xs).sp = s.sp := rfl
@[simp] theorem State.writeBytes_delayTimer (s : State) (a : Nat) (xs : List Byte) : (s.writeBytes a xs).delayTimer = s.delayTimer := rfl
@[simp] theorem State.writeBytes_soundTimer (s : State) (a : Nat) (xs : List Byte) : (s.writeBytes a xs).soundTimer = s.soundTimer := rfl
@[simp] theorem State.writeBytes_fb (s : State) (a : Nat) (xs : List Byte) : (s.writeBytes a xs).fb = s.fb := rfl
@[simp] theorem State.writeBytes_keys (s : State) (a : Nat) (xs : List Byte) : (s.writeBytes a xs).keys = s.keys := rfl
@[simp] theorem State.writeBytes_redraw (s : State) (a : Nat) (xs : List Byte) : (s.writeBytes a xs).redraw = s.redraw := rfl
@[simp] theorem State.writeBytes_fault (s : State) (a : Nat) (xs : List Byte) : (s.writeBytes a xs).fault = s.fault := rfl
@[simp] theorem State.writeBytes_config (s : State) (a : Nat) (xs : List Byte) : (s.writeBytes a xs).config = s.config := rfl
@[simp] theorem State.writeBytes_draws (s : State) (a : Nat) (xs : List Byte) : (s.writeBytes a xs).draws = s.draws := rfl

@[simp] theorem clearRedraw_mem (s : State) : (clearRedraw s).mem = s.mem := rfl
@[simp] theorem clearRedraw_v (s : State) : (clearRedraw s).v = s.v := rfl
@[simp] theorem clearRedraw_i (s : State) : (clearRedraw s).i = s.i := rfl
@[simp] theorem clearRedraw_pc (s : State) : (clearRedraw s).pc = s.pc := rfl
@[simp] theorem clearRedraw_stack (s : State) : (clearRedraw s).stack = s.stack := rfl
@[simp] theorem clearRedraw_sp (s : State) : (clearRedraw s).sp = s.sp := rfl
@[simp] theorem clearRedraw_delayTimer (s : State) : (clearRedraw s).delayTimer = s.delayTimer := rfl
@[simp] theorem clearRedraw_soundTimer (s : State) : (clearRedraw s).soundTimer = s.soundTimer := rfl
@[simp] theorem clearRedraw_fb (s : State) : (clearRedraw s).fb = s.fb := rfl
@[simp] theorem clearRedraw_keys (s : State) : (clearRedraw s).keys = s.keys := rfl
@[simp] theorem clearRedraw_redraw (s : State) : (clearRedraw s).redraw = false := rfl
@[simp] theorem clearRedraw_fault (s : State) : (clearRedraw s).fault = s.fault := rfl
@[simp] theorem clearRedraw_config (s : State) : (clearRedraw s).config = s.config := rfl
@[simp] theorem clearRedraw_draws (s : State) : (clearRedraw s).draws = s.draws := rfl

@[simp] theorem tickTimers_mem (s : State) : (tickTimers s).mem = s.mem := rfl
@[simp] theorem tickTimers_v (s : State) : (tickTimers s).v = s.v := rfl
@[simp] theorem tickTimers_i (s : State) : (tickTimers s).i = s.i := rfl
@[simp] theorem tickTimers_pc (s : State) : (tickTimers s).pc = s.pc := rfl
@[simp] theorem tickTimers_stack (s : State) : (tickTimers s).stack = s.stack := rfl
@[simp] theorem tickTimers_sp (s : State) : (tickTimers s).sp = s.sp := rfl
@[simp] theorem tickTimers_delayTimer (s : State) : (tickTimers s).delayTimer = tick s.delayTimer := rfl
@[simp] theorem tickTimers_soundTimer (s : State) : (tickTimers s).soundTimer = tick s.soundTimer := rfl
@[simp] theorem tickTimers_fb (s : State) : (tickTimers s).fb = s.fb := rfl
@[simp] theorem tickTimers_keys (s : State) : (tickTimers s).keys = s.keys := rfl
@[simp] theorem tickTimers_redraw (s : State) : (tickTimers s).redraw = s.redraw := rfl
@[simp] theorem tickTimers_fault (s : State) : (tickTimers s).fault = s.fault := rfl
@[simp] theorem tickTimers_config (s : State) : (tickTimers s).config = s.config := rfl
@[simp] theorem tickTimers_draws (s : State) : (tickTimers s).draws = s.draws := rfl

@[simp] theorem advancePc_mem (s : State) : (advancePc s).mem = s.mem := rfl
@[simp] theorem advancePc_v (s : State) : (advancePc s).v = s.v := rfl
@[simp] theorem advancePc_i (s : State) : (advancePc s).i = s.i := rfl
@[simp] theorem advancePc_pc (s : State) : (advancePc s).pc = s.pc + 2 := rfl
@[simp] theorem advancePc_stack (s : State) : (advancePc s).stack = s.stack := rfl
@[simp] theorem advancePc_sp (s : State) : (advancePc s).sp = s.sp := rfl
@[simp] theorem advancePc_delayTimer (s : State) : (advancePc s).delayTimer = s.delayTimer := rfl
@[simp] theorem advancePc_soundTimer (s : State) : (advancePc s).soundTimer = s.soundTimer := rfl
@[simp] theorem advancePc_fb (s : State) : (advancePc s).fb = s.fb := rfl
@[simp] theorem advancePc_keys (s : State) : (advancePc s).keys = s.keys := rfl
@[simp] theorem advancePc_redraw (s : State) : (advancePc s).redraw = s.redraw := rfl
@[simp] theorem advancePc_fault (s : State) : (advancePc s).fault = s.fault := rfl
@[simp] theorem advancePc_config (s : State) : (advancePc s).config = s.config := rfl
@[simp] theorem advancePc_draws (s : State) : (advancePc s).draws = s.draws := rfl

@[simp] theorem prepared_mem (s : State) : (prepared s).mem = s.mem := rfl
@[simp] theorem prepared_v (s : State) : (prepared s).v = s.v := rfl
@[simp] theorem prepared_i (s : State) : (prepared s).i = s.i := rfl
@[simp] theorem prepared_pc (s : State) : (prepared s).pc = s.pc := rfl
@[simp] theorem prepared_stack (s : State) : (prepared s).stack = s.stack := rfl
@[simp] theorem prepared_sp (s : State) : (prepared s).sp = s.sp := rfl
@[simp] theorem prepared_delayTimer (s : State) : (prepared s).delayTimer = tick s.delayTimer := rfl
@[simp] theorem prepared_soundTimer (s : State) : (prepared s).soundTimer = tick s.soundTimer := rfl
@[simp] theorem prepared_fb (s : State) : (prepared s).fb = s.fb := rfl
@[simp] theorem prepared_keys (s : State) : (prepared s).keys = s.keys := rfl
@[simp] theorem prepared_redraw (s : State) : (prepared s).redraw = false := rfl
@[simp] theorem prepared_fault (s : State) : (prepared s).fault = s.fault := rfl
@[simp] theorem prepared_config (s : State) : (prepared s).config = s.config := rfl
@[simp] theorem prepared_draws (s : State) : (prepared s).draws = s.draws := rfl

@[simp] theorem State.skipIf_mem (s : State) (c : Bool) : (s.skipIf c).mem = s.mem := by
  cases c <;> rfl
@[simp] theorem State.skipIf_v (s : State) (c : Bool) : (s.skipIf c).v = s.v := by
  cases c <;> rfl
@[simp] theorem State.skipIf_i (s : State) (c : Bool) : (s.skipIf c).i = s.i := by
  cases c <;> rfl
@[simp] theorem State.skipIf_pc (s : State) (c : Bool) : (s.skipIf c).pc = if c then s.pc + 2 else s.pc := by
  cases c <;> rfl
@[simp] theorem State.skipIf_stack (s : State) (c : Bool) : (s.skipIf c).stack = s.stack := by
  cases c <;> rfl
@[simp] theorem State.skipIf_sp (s : State) (c : Bool) : (s.skipIf c).sp = s.sp := by
  cases c <;> rfl
@[simp] theorem State.skipIf_delayTimer (s : State) (c : Bool) : (s.skipIf c).delayTimer = s.delayTimer := by
  cases c <;> rfl
@[simp] theorem State.skipIf_soundTimer (s : State) (c : Bool) : (s.skipIf c).soundTimer = s.soundTimer := by
  cases c <;> rfl
@[simp] theorem State.skipIf_fb (s : State) (c : Bool) : (s.skipIf c).fb = s.fb := by
  cases c <;> rfl
@[simp] theorem State.skipIf_keys (s : State) (c : Bool) : (s.skipIf c).keys = s.keys := by
  cases c <;> rfl
@[simp] theorem State.skipIf_redraw (s : State) (c : Bool) : (s.skipIf c).redraw = s.redraw := by
  cases c <;> rfl
@[simp] theorem State.skipIf_fault (s : State) (c : Bool) : (s.skipIf c).fault = s.fault := by
  cases c <;> rfl
@[simp] theorem State.skipIf_config (s : State) (c : Bool) : (s.skipIf c).config = s.config := by
  cases c <;> rfl
@[simp] theorem State.skipIf_draws (s : State) (c : Bool) : (s.skipIf c).draws = s.draws := by
  cases c <;> rfl

/-! ## Registers and bytes through the updates -/

@[simp] theorem State.reg_setReg_same (s : State) (x : Reg) (b : Byte) : (s.setReg x b).reg x = b := by
  simp [State.reg, State.setReg]

theorem State.reg_setReg_ne (s : State) (x r : Reg) (b : Byte) (h : r ≠ x) : (s.setReg x b).reg r = s.reg r := by
  have : x.val ≠ r.val := fun e => h (Fin.ext e.symm)
  simp [State.reg, State.setReg, Vector.getElem_set_ne, this]

/-- A register after a write to another or to itself. -/
theorem State.reg_setReg (s : State) (x r : Reg) (b : Byte) :
    (s.setReg x b).reg r = if r = x then b else s.reg r := by
  by_cases h : r = x
  · subst h; simp
  · simp [h, State.reg_setReg_ne]

@[simp] theorem State.setIndex_reg (s : State) (a : Word) (r : Reg) : (s.setIndex a).reg r = s.reg r := rfl
@[simp] theorem State.setPc_reg (s : State) (a : Word) (r : Reg) : (s.setPc a).reg r = s.reg r := rfl
@[simp] theorem State.setDelay_reg (s : State) (b : Byte) (r : Reg) : (s.setDelay b).reg r = s.reg r := rfl
@[simp] theorem State.setSound_reg (s : State) (b : Byte) (r : Reg) : (s.setSound b).reg r = s.reg r := rfl
@[simp] theorem State.writeByte_reg (s : State) (a : Nat) (x : Byte) (r : Reg) : (s.writeByte a x).reg r = s.reg r := rfl
@[simp] theorem State.writeBytes_reg (s : State) (a : Nat) (xs : List Byte) (r : Reg) : (s.writeBytes a xs).reg r = s.reg r := rfl
@[simp] theorem clearRedraw_reg (s : State) (r : Reg) : (clearRedraw s).reg r = s.reg r := rfl
@[simp] theorem tickTimers_reg (s : State) (r : Reg) : (tickTimers s).reg r = s.reg r := rfl
@[simp] theorem advancePc_reg (s : State) (r : Reg) : (advancePc s).reg r = s.reg r := rfl
@[simp] theorem prepared_reg (s : State) (r : Reg) : (prepared s).reg r = s.reg r := rfl
@[simp] theorem State.skipIf_reg (s : State) (c : Bool) (r : Reg) : (s.skipIf c).reg r = s.reg r := by
  cases c <;> rfl

@[simp] theorem State.setReg_readByte (s : State) (x : Reg) (b : Byte) (k : Nat) : (s.setReg x b).readByte k = s.readByte k := rfl
@[simp] theorem State.setIndex_readByte (s : State) (a : Word) (k : Nat) : (s.setIndex a).readByte k = s.readByte k := rfl
@[simp] theorem State.setPc_readByte (s : State) (a : Word) (k : Nat) : (s.setPc a).readByte k = s.readByte k := rfl
@[simp] theorem State.setDelay_readByte (s : State) (b : Byte) (k : Nat) : (s.setDelay b).readByte k = s.readByte k := rfl
@[simp] theorem State.setSound_readByte (s : State) (b : Byte) (k : Nat) : (s.setSound b).readByte k = s.readByte k := rfl
@[simp] theorem clearRedraw_readByte (s : State) (k : Nat) : (clearRedraw s).readByte k = s.readByte k := rfl
@[simp] theorem tickTimers_readByte (s : State) (k : Nat) : (tickTimers s).readByte k = s.readByte k := rfl
@[simp] theorem advancePc_readByte (s : State) (k : Nat) : (advancePc s).readByte k = s.readByte k := rfl
@[simp] theorem prepared_readByte (s : State) (k : Nat) : (prepared s).readByte k = s.readByte k := rfl
@[simp] theorem State.skipIf_readByte (s : State) (c : Bool) (k : Nat) : (s.skipIf c).readByte k = s.readByte k := by
  cases c <;> rfl

/-- Two states that agree in every element are equal. -/
theorem State.ext_fields {s t : State} (h1 : s.mem = t.mem) (h2 : s.v = t.v) (h3 : s.i = t.i) (h4 : s.pc = t.pc)
    (h5 : s.stack = t.stack) (h6 : s.sp = t.sp) (h7 : s.delayTimer = t.delayTimer) (h8 : s.soundTimer = t.soundTimer)
    (h9 : s.fb = t.fb) (h10 : s.keys = t.keys) (h11 : s.redraw = t.redraw) (h12 : s.fault = t.fault)
    (h13 : s.config = t.config) (h14 : s.draws = t.draws) : s = t := by
  cases s; cases t; simp_all

end Sys2Proof.Machine
end

