-- ==== Sys2Proof/Laws/Memory.lean ====
section
/-! SUPPORT. Memory: a read after a write, a write leaves every other cell alone, and every operation keeps the
canonical form (20_memory.md R53, R54, R65). -/

namespace Sys2Proof.Machine

theorem cell_lt (a : Nat) : cell a < Config.memSize := Nat.mod_lt _ (by decide)

@[simp] theorem cell_cell (a : Nat) : cell (cell a) = cell a := Nat.mod_mod _ _

theorem cell_of_lt {a : Nat} (h : a < Config.memSize) : cell a = a := Nat.mod_eq_of_lt h

/-! ## The list of cells -/

theorem Memory.find?_put_same (m : Memory) (a : Nat) (x : Byte) : Memory.find? (Memory.put m a x) a = some x := by
  induction m with
  | nil => simp [Memory.put, Memory.find?]
  | cons p m ih =>
    simp only [Memory.put]
    split
    · simp [Memory.find?]
    · split
      · simp [Memory.find?]
      · simp [Memory.find?, *]

theorem Memory.find?_put_ne (m : Memory) {a b : Nat} (x : Byte) (h : b ≠ a) :
    Memory.find? (Memory.put m a x) b = Memory.find? m b := by
  induction m with
  | nil => simp [Memory.put, Memory.find?, h]
  | cons p m ih =>
    simp only [Memory.put]
    split
    · simp [Memory.find?, h]
    · split
      · rename_i e; subst e; simp [Memory.find?, h]
      · simp [Memory.find?, ih]

theorem Memory.find?_drop_ne (m : Memory) {a b : Nat} (h : b ≠ a) :
    Memory.find? (Memory.drop m a) b = Memory.find? m b := by
  induction m with
  | nil => rfl
  | cons p m ih =>
    simp only [Memory.drop]
    split
    · rename_i e; subst e; simp [Memory.find?, h]
    · simp [Memory.find?, ih]

/-- No cell below the first address of a rising list is listed. -/
theorem Memory.find?_none_of_lt {m : Memory} {a : Nat} (h : ∀ p ∈ m, a < p.1) : Memory.find? m a = none := by
  induction m with
  | nil => rfl
  | cons p m ih =>
    have hp := h p (by simp)
    have : a ≠ p.1 := by omega
    simp only [Memory.find?, this, if_false]
    exact ih (fun q hq => h q (by simp [hq]))

theorem Memory.find?_drop_same {m : Memory} (a : Nat) (h : m.Pairwise (fun p q => p.1 < q.1)) :
    Memory.find? (Memory.drop m a) a = none := by
  induction m with
  | nil => rfl
  | cons p m ih =>
    rw [List.pairwise_cons] at h
    simp only [Memory.drop]
    split
    · rename_i e; subst e; exact Memory.find?_none_of_lt h.1
    · rename_i e; simp only [Memory.find?, e, if_false]; exact ih h.2

theorem Memory.mem_drop {m : Memory} {a : Nat} {p : Host.Cell} (h : p ∈ Memory.drop m a) : p ∈ m := by
  induction m with
  | nil => exact h
  | cons q m ih =>
    simp only [Memory.drop] at h
    split at h
    · exact List.mem_cons_of_mem _ h
    · rcases List.mem_cons.1 h with rfl | h
      · simp
      · exact List.mem_cons_of_mem _ (ih h)

theorem Memory.mem_put {m : Memory} {a : Nat} {x : Byte} {p : Host.Cell} (h : p ∈ Memory.put m a x) :
    p = (a, x) ∨ p ∈ m := by
  induction m with
  | nil => simpa [Memory.put] using h
  | cons q m ih =>
    simp only [Memory.put] at h
    split at h
    · simpa using h
    · split at h
      · rcases List.mem_cons.1 h with h | h
        · exact .inl h
        · exact .inr (List.mem_cons_of_mem _ h)
      · rcases List.mem_cons.1 h with rfl | h
        · exact .inr (by simp)
        · exact (ih h).imp id (List.mem_cons_of_mem _)

theorem Memory.pairwise_drop {m : Memory} (a : Nat) (h : m.Pairwise (fun p q => p.1 < q.1)) :
    (Memory.drop m a).Pairwise (fun p q => p.1 < q.1) := by
  induction m with
  | nil => exact h
  | cons p m ih =>
    rw [List.pairwise_cons] at h
    simp only [Memory.drop]
    split
    · exact h.2
    · exact List.pairwise_cons.2 ⟨fun q hq => h.1 q (Memory.mem_drop hq), ih h.2⟩

theorem Memory.pairwise_put {m : Memory} (a : Nat) (x : Byte) (h : m.Pairwise (fun p q => p.1 < q.1)) :
    (Memory.put m a x).Pairwise (fun p q => p.1 < q.1) := by
  induction m with
  | nil => simp [Memory.put]
  | cons p m ih =>
    have h' := List.pairwise_cons.1 h
    simp only [Memory.put]
    split
    · rename_i lt
      refine List.pairwise_cons.2 ⟨fun q hq => ?_, h⟩
      rcases List.mem_cons.1 hq with rfl | hq
      · exact lt
      · exact Nat.lt_trans lt (h'.1 q hq)
    · split
      · rename_i e; subst e
        exact List.pairwise_cons.2 ⟨h'.1, h'.2⟩
      · rename_i nlt ne
        refine List.pairwise_cons.2 ⟨fun q hq => ?_, ih h'.2⟩
        rcases Memory.mem_put hq with rfl | hq
        · show p.1 < a; omega
        · exact h'.1 q hq

/-! ## Reads and writes -/

/-- A read depends on the cell alone (R51). -/
@[simp] theorem Memory.read_cell (c : Config) (m : Memory) (a : Nat) :
    Memory.read c m (cell a) = Memory.read c m a := by simp [Memory.read]

theorem Memory.read_congr (c : Config) (m : Memory) {a b : Nat} (h : cell a = cell b) :
    Memory.read c m a = Memory.read c m b := by simp [Memory.read, h]

theorem Memory.read_write_ne (c : Config) (m : Memory) {a b : Nat} (x : Byte) (h : cell b ≠ cell a) :
    Memory.read c (Memory.write c m a x) b = Memory.read c m b := by
  unfold Memory.read Memory.write
  split
  · rw [Memory.find?_drop_ne m h]
  · rw [Memory.find?_put_ne m x h]

theorem Memory.read_write_same {c : Config} {m : Memory} (a : Nat) (x : Byte) {b : Nat} (w : Memory.wf c m)
    (h : cell b = cell a) : Memory.read c (Memory.write c m a x) b = x := by
  unfold Memory.read Memory.write
  rw [h]
  split
  · rename_i e; rw [Memory.find?_drop_same _ w.1]; simp [e]
  · rw [Memory.find?_put_same]; rfl

theorem Memory.wf_write {c : Config} {m : Memory} (a : Nat) (x : Byte) (w : Memory.wf c m) :
    Memory.wf c (Memory.write c m a x) := by
  unfold Memory.write
  split
  · exact ⟨Memory.pairwise_drop _ w.1, fun p hp => w.2 p (Memory.mem_drop hp)⟩
  · rename_i ne
    refine ⟨Memory.pairwise_put _ _ w.1, fun p hp => ?_⟩
    rcases Memory.mem_put hp with rfl | hp
    · exact ⟨cell_lt a, ne⟩
    · exact w.2 p hp

theorem Memory.wf_writeBlock {c : Config} {m : Memory} (a : Nat) (xs : List Byte) (w : Memory.wf c m) :
    Memory.wf c (Memory.writeBlock c m a xs) := by
  induction xs generalizing m a with
  | nil => exact w
  | cons x xs ih => exact ih (a + 1) (Memory.wf_write a x w)

theorem Memory.wf_reset : Memory.wf State.reset.config State.reset.mem := by
  constructor
  · exact List.Pairwise.nil
  · intro p hp; cases hp

/-- A block store leaves every cell outside the block alone. -/
theorem Memory.read_writeBlock_outside (c : Config) (m : Memory) (a : Nat) (xs : List Byte) {b : Nat}
    (h : ∀ k, k < xs.length → cell (a + k) ≠ cell b) :
    Memory.read c (Memory.writeBlock c m a xs) b = Memory.read c m b := by
  induction xs generalizing m a with
  | nil => rfl
  | cons x xs ih =>
    rw [Memory.writeBlock, ih]
    · exact Memory.read_write_ne c m x (by simpa using (h 0 (by simp)).symm)
    · intro k hk; have := h (k + 1) (by simpa using hk)
      rwa [show a + (k + 1) = a + 1 + k by omega] at this

/-- A block store no longer than memory puts each byte where it belongs. -/
theorem Memory.read_writeBlock_inside {c : Config} {m : Memory} (a : Nat) (xs : List Byte) (w : Memory.wf c m)
    (len : xs.length ≤ Config.memSize) {k : Nat} (hk : k < xs.length) :
    Memory.read c (Memory.writeBlock c m a xs) (a + k) = xs[k] := by
  induction xs generalizing m a k with
  | nil => simp at hk
  | cons x xs ih =>
    simp only [List.length_cons] at len hk
    rw [Memory.writeBlock]
    cases k with
    | zero =>
      rw [Memory.read_writeBlock_outside]
      · exact Memory.read_write_same a x w (by simp)
      · intro j hj; simp only [cell, Config.memSize] at *; omega
    | succ k =>
      rw [show a + (k + 1) = a + 1 + k by omega, ih (a + 1) (Memory.wf_write a x w) (by omega) (by omega)]
      simp

/-! ## The state's bytes -/

@[simp] theorem State.readByte_cell (s : State) (a : Nat) : s.readByte (cell a) = s.readByte a :=
  Memory.read_cell _ _ _

theorem State.readByte_congr (s : State) {a b : Nat} (h : cell a = cell b) : s.readByte a = s.readByte b :=
  Memory.read_congr _ _ h

theorem State.readByte_writeBytes_outside (s : State) (a : Nat) (xs : List Byte) {b : Nat}
    (h : ∀ k, k < xs.length → cell (a + k) ≠ cell b) : (s.writeBytes a xs).readByte b = s.readByte b :=
  Memory.read_writeBlock_outside _ _ _ _ h

theorem State.readByte_writeBytes_inside (s : State) (a : Nat) (xs : List Byte) (w : Memory.wf s.config s.mem)
    (len : xs.length ≤ Config.memSize) {k : Nat} (hk : k < xs.length) :
    (s.writeBytes a xs).readByte (a + k) = xs[k] :=
  Memory.read_writeBlock_inside a xs w len hk

end Sys2Proof.Machine
end

