-- ==== Sys2Proof/Laws/Ops.lean ====
section
/-! SUPPORT. One lemma per shared operation that says once everything it can do. -/

namespace Sys2Proof.Machine

/-- Push succeeds exactly on a stack with room (R29), and says what it leaves. -/
theorem push_some {s t : State} {a : Word} (h : push s a = some t) :
    ∃ ok : 0 ≤ s.sp + 1 ∧ s.sp + 1 < 16,
      t = { s with stack := s.stack.set (s.sp + 1).toNat a (by omega), sp := s.sp + 1 } := by
  unfold push at h
  split at h
  · rename_i ok; exact ⟨ok, by simpa using h.symm⟩
  · cases h

theorem push_none_iff (s : State) (a : Word) : push s a = none ↔ ¬ (-1 ≤ s.sp ∧ s.sp ≤ 14) := by
  unfold push
  split
  · simp; omega
  · simp; omega

/-- Pop succeeds exactly on a stack that is not empty (R30), and says what it leaves. -/
theorem pop_some {s t : State} {a : Word} (h : pop s = some (a, t)) :
    ∃ ok : 0 ≤ s.sp ∧ s.sp < 16, a = s.stack[s.sp.toNat]'(by omega) ∧ t = { s with sp := s.sp - 1 } := by
  unfold pop at h
  split at h
  · rename_i ok; simp only [Option.some.injEq, Prod.mk.injEq] at h; exact ⟨ok, h.1.symm, h.2.symm⟩
  · cases h

theorem pop_none_iff (s : State) : pop s = none ↔ ¬ (0 ≤ s.sp ∧ s.sp ≤ 15) := by
  unfold pop
  split
  · simp; omega
  · simp; omega

/-- A block store raises FontRegionWrite or stores the block; it does nothing else (R54, R143, R144). -/
theorem storeBlock_cases (s : State) (xs : List Byte) :
    ((s.config.fontStorePolicy = .fault ∧ touchesFont s xs.length = true) ∧
        storeBlock s xs = .next { s with fault := some .fontRegionWrite }) ∨
    (¬ (s.config.fontStorePolicy = .fault ∧ touchesFont s xs.length = true) ∧
        storeBlock s xs = .next (s.writeBytes s.i.toNat xs)) := by
  unfold storeBlock
  split
  · exact .inl ⟨‹_›, rfl⟩
  · exact .inr ⟨‹_›, rfl⟩

theorem touchesFont_iff (s : State) (n : Nat) : touchesFont s n = true ↔ ∃ k, k < n ∧ effAddr s k < 0x050 := by
  simp [touchesFont]

@[simp] theorem raise_eq (f : Fault) (s : State) : raise f s = .next { s with fault := some f } := rfl

@[simp] theorem bcdDigits_length (b : Byte) : (bcdDigits b).length = 3 := rfl

@[simp] theorem regBlock_length (s : State) (x : Reg) : (regBlock s x).length = x.val + 1 := by
  have := x.isLt
  simp only [regBlock, List.length_take, Vector.length_toList]; omega

theorem regBlock_getElem (s : State) (x : Reg) {k : Nat} (h : k < (regBlock s x).length) :
    (regBlock s x)[k] = s.reg ⟨k, by have := x.isLt; simp at h; omega⟩ := by
  simp [regBlock, State.reg]

/-- A timer's tick is a subtraction that stops at 0 (R83). -/
theorem tick_toNat (t : Byte) : (tick t).toNat = t.toNat - 1 := by
  unfold tick
  split <;> bv_omega

/-- Steps 1 and 2 pass exactly in range (R81). -/
theorem checkState_none_iff (s : State) :
    checkState s = none ↔ s.pc.toNat < 0x1000 ∧ -1 ≤ s.sp ∧ s.sp ≤ 15 := by
  unfold checkState Config.memSize
  split
  · simp; omega
  · split
    · simp; omega
    · simp; omega

/-- The lowest pressed key is pressed, and no key below it is (R163). -/
theorem lowestPressed_some {s : State} {k : Key} (h : lowestPressed s = some k) :
    s.keys[k] = true ∧ ∀ j : Key, j < k → s.keys[j] = false := by
  unfold lowestPressed at h
  obtain ⟨hk, as, bs, hl, hn⟩ := List.find?_eq_some_iff_append.1 h
  refine ⟨hk, fun j hj => ?_⟩
  have hmem : j ∈ as := by
    have hs : (List.finRange 16).Pairwise (· < ·) := List.pairwise_lt_finRange 16
    have hin : j ∈ as ++ k :: bs := hl ▸ List.mem_finRange j
    rw [hl, List.pairwise_append] at hs
    rcases List.mem_append.1 hin with h | h
    · exact h
    · rcases List.mem_cons.1 h with rfl | h
      · exact absurd hj (lt_irrefl _)
      · exact absurd ((List.pairwise_cons.1 hs.2.1).1 j h) (not_lt.2 hj.le)
  simpa using hn j hmem

theorem lowestPressed_none_iff (s : State) : lowestPressed s = none ↔ ∀ k : Key, s.keys[k] = false := by
  simp [lowestPressed, List.find?_eq_none]

/-! ## Pixels -/

/-- A toggled pixel is inverted and every other is left alone (R151). -/
theorem pixel_togglePixel (fb : FrameBuffer) (r r' : Fin 32) (c c' : Fin 64) :
    pixel (togglePixel fb r c) r' c' = if r' = r ∧ c' = c then !pixel fb r' c' else pixel fb r' c' := by
  unfold pixel togglePixel pixel
  by_cases hr : r' = r
  · subst hr
    by_cases hc : c' = c
    · subst hc; simp
    · have : c.val ≠ c'.val := fun h => hc (Fin.ext h.symm)
      simp [Vector.getElem_set_ne, hc, this]
  · have : r.val ≠ r'.val := fun h => hr (Fin.ext h.symm)
    simp [Vector.getElem_set_ne, hr, this]

/-- Two frame buffers with the same pixels are equal. -/
theorem FrameBuffer.ext_pixels {f g : FrameBuffer} (h : ∀ r c, pixel f r c = pixel g r c) : f = g := by
  apply Vector.ext
  intro r hr
  apply Vector.ext
  intro c hc
  exact h ⟨r, hr⟩ ⟨c, hc⟩

@[simp] theorem pixel_clearedFb (r : Fin 32) (c : Fin 64) : pixel clearedFb r c = false := by
  simp [pixel, clearedFb]

end Sys2Proof.Machine
end

