-- ==== Sys2Proof/Laws/Cycle.lean ====
section
/-! SUPPORT. Everything one `step` can do, said once (30_encoding.md R80 to R88). -/

namespace Sys2Proof.Machine

/-- The fetch of a cycle that passes step 1 (R84): an odd pc faults, an even one gives the word there. -/
theorem fetchWord_prepared (s : State) (h : s.pc.toNat < 0x1000) :
    fetchWord (prepared s) s.pc.toNat =
      if s.pc.toNat % 2 = 1 then .error .addressValueIsNotEven else .ok (wordAtPc s) := by
  unfold fetchWord
  rw [cell_of_lt h]
  rfl

/-- A failed check of step 1 or 2 ends the cycle with nothing done (R81). -/
theorem cycle_of_check {s : State} {f : Fault} (h : checkState s = some f) : cycle s = .next { s with fault := some f } := by
  unfold cycle; rw [h]; rfl

/-- Past steps 1 and 2 the fetch decides (R84). -/
theorem cycle_of_pass {s : State} (h : checkState s = none) :
    cycle s = if s.pc.toNat % 2 = 1 then .next { prepared s with fault := some .addressValueIsNotEven }
      else dispatch (wordAtPc s) (prepared s) := by
  unfold cycle; rw [h]; dsimp only
  rw [fetchWord_prepared s ((checkState_none_iff s).1 h).1]
  by_cases ho : s.pc.toNat % 2 = 1
  · rw [if_pos ho, if_pos ho]; rfl
  · rw [if_neg ho, if_neg ho]

/-- A cycle that is not admitted (R203), or whose step 1 or step 2 fails (R81, R88), or that is admitted. -/
theorem step_cases (s : State) :
    (∃ f, s.fault = some f ∧ step s = .fault f) ∨
    (s.fault = none ∧ 0x1000 ≤ s.pc.toNat ∧ step s = .next { s with fault := some .programCounterOutOfRange }) ∨
    (s.fault = none ∧ s.pc.toNat < 0x1000 ∧ (s.sp < -1 ∨ 16 ≤ s.sp) ∧
      step s = .next { s with fault := some .stackPointerOutOfRange }) ∨
    (Admitted s ∧ s.pc.toNat % 2 = 1 ∧ step s = .next { prepared s with fault := some .addressValueIsNotEven }) ∨
    (Admitted s ∧ s.pc.toNat % 2 = 0 ∧ step s = dispatch (wordAtPc s) (prepared s)) := by
  cases hf : s.fault with
  | some f => exact .inl ⟨f, rfl, by simp [step, stepOnce, hf]⟩
  | none =>
    right
    rw [show step s = cycle s by simp [step, stepOnce, hf]]
    by_cases hp : 0x1000 ≤ s.pc.toNat
    · exact .inl ⟨rfl, hp, cycle_of_check (by simp [checkState, Config.memSize, hp])⟩
    by_cases hsp : s.sp < -1 ∨ 16 ≤ s.sp
    · exact .inr (.inl ⟨rfl, by omega, hsp, cycle_of_check (by simp [checkState, Config.memSize, hp, hsp])⟩)
    have ha : Admitted s := ⟨hf, by omega, by omega, by omega⟩
    have hc := cycle_of_pass ((checkState_none_iff s).2 ha.2)
    by_cases ho : s.pc.toNat % 2 = 1
    · exact .inr (.inr (.inl ⟨ha, ho, by rw [hc, if_pos ho]⟩))
    · exact .inr (.inr (.inr ⟨ha, by omega, by rw [hc, if_neg ho]⟩))

/-- An admitted cycle at an even pc dispatches the word there. -/
theorem step_of_even {s : State} (h : Admitted s) (he : s.pc.toNat % 2 = 0) :
    step s = dispatch (wordAtPc s) (prepared s) := by
  obtain ⟨hf, hp, hl, hu⟩ := h
  rcases step_cases s with ⟨f, h, -⟩ | ⟨-, h, -⟩ | ⟨-, -, h, -⟩ | ⟨-, h, -⟩ | ⟨-, -, h⟩
  · simp [hf] at h
  · omega
  · omega
  · omega
  · exact h

/-- A word that decodes runs its instruction with pc advanced (R87). -/
theorem dispatch_ok {w : Word} {i : Instr} (h : decodeWord w = .ok i) (s : State) :
    dispatch w s = exec i (advancePc s) := by simp [dispatch, h]

/-- A word that does not decode raises UnsupportedOpcode with pc advanced (R87, R88). -/
theorem dispatch_error {w : Word} {e : DecodeError} (h : decodeWord w = .error e) (s : State) :
    dispatch w s = .next { advancePc s with fault := some .unsupportedOpcode } := by simp [dispatch, h]

end Sys2Proof.Machine
end

