-- ==== Sys2Proof/Laws/Draw.lean ====
section
/-! SUPPORT. What the loops of a draw do to one pixel (43_display.md R151). -/

namespace Sys2Proof.Machine

/-- One sprite bit inverts its pixel if it is set and touches nothing else; it reports an erasure if the pixel was 1. -/
theorem drawBit_spec (x0 y0 : Nat) (b : Byte) (r : Nat) (acc : DrawAcc) (c : Nat) (row : Fin 32) (col : Fin 64) :
    pixel (drawBit x0 y0 b r acc c).1 row col =
        (pixel acc.1 row col ^^
          (b.getLsbD (7 - c) && decide (row = Fin.ofNat 32 (y0 + r)) && decide (col = Fin.ofNat 64 (x0 + c)))) ∧
      (drawBit x0 y0 b r acc c).2 =
        (acc.2 || (b.getLsbD (7 - c) && pixel acc.1 (Fin.ofNat 32 (y0 + r)) (Fin.ofNat 64 (x0 + c)))) := by
  unfold drawBit
  cases hb : b.getLsbD (7 - c)
  · simp
  · simp only [if_true, pixel_togglePixel, Bool.true_and, and_true]
    by_cases h : row = Fin.ofNat 32 (y0 + r) ∧ col = Fin.ofNat 64 (x0 + c)
    · obtain ⟨rfl, rfl⟩ := h; simp
    · rw [if_neg h]
      rcases not_and_or.1 h with h | h <;>
        simp only [h, decide_false, Bool.false_and, Bool.and_false, Bool.xor_false]

end Sys2Proof.Machine
end

