-- ==== Sys2Proof/Laws/PerInstr.lean ====
section
/-! SUPPORT. Statements made per instruction: a family is a Statement on the instruction as syntax, and one lemma per
constructor. -/

namespace Sys2Proof.Laws.EncodesToSupportedWord

/-- The instruction encodes to a word that R75 does not list as unsupported. -/
def Statement (i : Instr) : Prop := wordSupported (encode i) = true

/-- The support check reads the group and the low byte or nibble. -/
theorem of_packN12 (g : Nibble) (nnn : Addr) (h : g.toNat ≠ 0 ∧ g.toNat ≠ 8 ∧ g.toNat ≠ 14 ∧ g.toNat ≠ 15) :
    wordSupported (packN12 g nnn) = true := by
  have : (packN12 g nnn >>> 12).toNat = g.toNat := by
    rw [BitVec.toNat_ushiftRight, packN12_toNat, Nat.shiftRight_eq_div_pow]; have := nnn.isLt; omega
  unfold wordSupported
  rw [this]
  split <;> simp_all

theorem group_packXNN (g : Nibble) (x : Reg) (nn : Byte) : (packXNN g x nn >>> 12).toNat = g.toNat := by
  rw [BitVec.toNat_ushiftRight, packXNN_toNat, Nat.shiftRight_eq_div_pow]; have := nn.isLt; omega

theorem nn_packXNN (g : Nibble) (x : Reg) (nn : Byte) : (packXNN g x nn &&& 0x00FF).toNat = nn.toNat := by
  rw [BitVec.toNat_and, packXNN_toNat]
  show _ &&& 2 ^ 8 - 1 = _
  rw [Nat.and_two_pow_sub_one_eq_mod]; have := nn.isLt; omega

theorem group_packXYN (g : Nibble) (x y : Reg) (n : Nibble) : (packXYN g x y n >>> 12).toNat = g.toNat := by
  rw [BitVec.toNat_ushiftRight, packXYN_toNat, Nat.shiftRight_eq_div_pow]; have := n.isLt; omega

theorem n_packXYN (g : Nibble) (x y : Reg) (n : Nibble) : (packXYN g x y n &&& 0x000F).toNat = n.toNat := by
  rw [BitVec.toNat_and, packXYN_toNat]
  show _ &&& 2 ^ 4 - 1 = _
  rw [Nat.and_two_pow_sub_one_eq_mod]; have := n.isLt; omega

theorem cls (x : Reg) : Statement (.cls x) := by
  simp only [Statement, encode, wordSupported, group_packXNN, nn_packXNN]; rfl
theorem ret (x : Reg) : Statement (.ret x) := by
  simp only [Statement, encode, wordSupported, group_packXNN, nn_packXNN]; rfl
theorem jp (nnn : Addr) : Statement (.jp nnn) := of_packN12 _ _ (by decide)
theorem call (nnn : Addr) : Statement (.call nnn) := of_packN12 _ _ (by decide)
theorem seImm (x : Reg) (nn : Byte) : Statement (.seImm x nn) := by
  simp only [Statement, encode, wordSupported, group_packXNN, nn_packXNN]; rfl
theorem sneImm (x : Reg) (nn : Byte) : Statement (.sneImm x nn) := by
  simp only [Statement, encode, wordSupported, group_packXNN, nn_packXNN]; rfl
theorem seReg (x y : Reg) (n : Nibble) : Statement (.seReg x y n) := by
  simp only [Statement, encode, wordSupported, group_packXYN, n_packXYN]; rfl
theorem ldImm (x : Reg) (nn : Byte) : Statement (.ldImm x nn) := by
  simp only [Statement, encode, wordSupported, group_packXNN, nn_packXNN]; rfl
theorem addImm (x : Reg) (nn : Byte) : Statement (.addImm x nn) := by
  simp only [Statement, encode, wordSupported, group_packXNN, nn_packXNN]; rfl
theorem ldReg (x y : Reg) : Statement (.ldReg x y) := by
  simp only [Statement, encode, wordSupported, group_packXYN, n_packXYN]; rfl
theorem orReg (x y : Reg) : Statement (.orReg x y) := by
  simp only [Statement, encode, wordSupported, group_packXYN, n_packXYN]; rfl
theorem andReg (x y : Reg) : Statement (.andReg x y) := by
  simp only [Statement, encode, wordSupported, group_packXYN, n_packXYN]; rfl
theorem xorReg (x y : Reg) : Statement (.xorReg x y) := by
  simp only [Statement, encode, wordSupported, group_packXYN, n_packXYN]; rfl
theorem addReg (x y : Reg) : Statement (.addReg x y) := by
  simp only [Statement, encode, wordSupported, group_packXYN, n_packXYN]; rfl
theorem sub (x y : Reg) : Statement (.sub x y) := by
  simp only [Statement, encode, wordSupported, group_packXYN, n_packXYN]; rfl
theorem shr (x y : Reg) : Statement (.shr x y) := by
  simp only [Statement, encode, wordSupported, group_packXYN, n_packXYN]; rfl
theorem subn (x y : Reg) : Statement (.subn x y) := by
  simp only [Statement, encode, wordSupported, group_packXYN, n_packXYN]; rfl
theorem shl (x y : Reg) : Statement (.shl x y) := by
  simp only [Statement, encode, wordSupported, group_packXYN, n_packXYN]; rfl
theorem sneReg (x y : Reg) (n : Nibble) : Statement (.sneReg x y n) := by
  simp only [Statement, encode, wordSupported, group_packXYN, n_packXYN]; rfl
theorem ldI (nnn : Addr) : Statement (.ldI nnn) := of_packN12 _ _ (by decide)
theorem jpV0 (nnn : Addr) : Statement (.jpV0 nnn) := of_packN12 _ _ (by decide)
theorem rnd (x : Reg) (nn : Byte) : Statement (.rnd x nn) := by
  simp only [Statement, encode, wordSupported, group_packXNN, nn_packXNN]; rfl
theorem drw (x y : Reg) (n : Nibble) : Statement (.drw x y n) := by
  simp only [Statement, encode, wordSupported, group_packXYN, n_packXYN]; rfl
theorem skp (x : Reg) : Statement (.skp x) := by
  simp only [Statement, encode, wordSupported, group_packXNN, nn_packXNN]; rfl
theorem sknp (x : Reg) : Statement (.sknp x) := by
  simp only [Statement, encode, wordSupported, group_packXNN, nn_packXNN]; rfl
theorem ldVxDt (x : Reg) : Statement (.ldVxDt x) := by
  simp only [Statement, encode, wordSupported, group_packXNN, nn_packXNN]; rfl
theorem ldVxK (x : Reg) : Statement (.ldVxK x) := by
  simp only [Statement, encode, wordSupported, group_packXNN, nn_packXNN]; rfl
theorem ldDtVx (x : Reg) : Statement (.ldDtVx x) := by
  simp only [Statement, encode, wordSupported, group_packXNN, nn_packXNN]; rfl
theorem ldStVx (x : Reg) : Statement (.ldStVx x) := by
  simp only [Statement, encode, wordSupported, group_packXNN, nn_packXNN]; rfl
theorem addI (x : Reg) : Statement (.addI x) := by
  simp only [Statement, encode, wordSupported, group_packXNN, nn_packXNN]; rfl
theorem ldF (x : Reg) : Statement (.ldF x) := by
  simp only [Statement, encode, wordSupported, group_packXNN, nn_packXNN]; rfl
theorem ldB (x : Reg) : Statement (.ldB x) := by
  simp only [Statement, encode, wordSupported, group_packXNN, nn_packXNN]; rfl
theorem ldMemFromRegs (x : Reg) : Statement (.ldMemFromRegs x) := by
  simp only [Statement, encode, wordSupported, group_packXNN, nn_packXNN]; rfl
theorem ldRegsFromMem (x : Reg) : Statement (.ldRegsFromMem x) := by
  simp only [Statement, encode, wordSupported, group_packXNN, nn_packXNN]; rfl

end Sys2Proof.Laws.EncodesToSupportedWord
end

