-- ==== Sys2Proof/Laws/Runs.lean ====
section
/-! SUPPORT. What a transaction, the transactions of one gap, and a run can do, said once (70_reset_and_hazards.md R239). -/

namespace Sys2Proof.Machine

/-! ## One transaction -/

/-- A readout leaves the state as it is (R211 to R213). -/
theorem applyTransaction_readout {x : Transaction} (h : isReadout x = true) (s : State) : applyTransaction x s = s := by
  cases x <;> first | rfl | cases h

@[simp] theorem applyTransaction_setKey (k : Key) (p : Bool) (s : State) :
    applyTransaction (.setKey k p) s = setKey k p s := rfl

/-- A load of too many bytes records its fault (R64). -/
theorem applyTransaction_load_long {bytes : List Byte} (h : Config.programMaxLen < bytes.length) (s : State) :
    (applyTransaction (.load bytes) s).fault = some .addressOutOfRange := by
  dsimp only [applyTransaction, hostLoad]; rw [if_pos h]

/-- A load that fits resets and copies (R63). -/
theorem applyTransaction_load_fits {bytes : List Byte} (h : bytes.length ≤ Config.programMaxLen) (s : State) :
    applyTransaction (.load bytes) s = (hostReset s).writeBytes Config.programBase bytes := by
  dsimp only [applyTransaction, hostLoad]; rw [if_neg (by omega)]

/-- No transaction changes the parameters or takes a draw (log 5). -/
theorem applyTransaction_config_draws (x : Transaction) (s : State) :
    (applyTransaction x s).config = s.config ∧ (applyTransaction x s).draws = s.draws := by
  cases x with
  | load bytes =>
    dsimp only [applyTransaction, hostLoad]
    by_cases hl : Config.programMaxLen < bytes.length
    · rw [if_pos hl]; exact ⟨rfl, rfl⟩
    · rw [if_neg hl]; exact ⟨rfl, rfl⟩
  | writeOpcode op a =>
    dsimp only [applyTransaction, hostWriteOpcode]
    by_cases ho : cell a % 2 = 1
    · rw [if_pos ho]; exact ⟨rfl, rfl⟩
    · rw [if_neg ho]
      by_cases hb : cell a < Config.programBase
      · rw [if_pos hb]; exact ⟨rfl, rfl⟩
      · rw [if_neg hb]; exact ⟨rfl, rfl⟩
  | _ => exact ⟨rfl, rfl⟩

/-! ## Going on -/

theorem goOn_next_of_none {s : State} (h : s.fault = none) (k : State → Result) : goOn (.next s) k = k s := by
  simp [goOn, h]

theorem goOn_next_of_some {s : State} {f : Fault} (h : s.fault = some f) (k : State → Result) :
    goOn (.next s) k = .fault f := by simp [goOn, h]

@[simp] theorem goOn_fault (f : Fault) (k : State → Result) : goOn (.fault f) k = .fault f := rfl

/-- A run that reaches a next state went through a next state with no fault recorded. -/
theorem goOn_next {r : Result} {k : State → Result} {t : State} (h : goOn r k = .next t) :
    ∃ u, r = .next u ∧ u.fault = none ∧ k u = .next t := by
  unfold goOn at h
  split at h
  · rename_i u
    split at h
    · exact ⟨u, rfl, ‹_›, h⟩
    · cases h
  · cases h
  · cases h

theorem goOn_assoc (r : Result) (k l : State → Result) : goOn (goOn r k) l = goOn r (fun t => goOn (k t) l) := by
  cases r with
  | next t => cases hf : t.fault <;> simp [goOn, hf]
  | fault f => rfl
  | refused x => rfl

/-! ## Gaps and runs -/

theorem between_nil {s : State} (h : s.fault = none) : between [] s = .next s := goOn_next_of_none h _

theorem between_cons {s : State} (h : s.fault = none) (x : Transaction) (xs : List Transaction) :
    between (x :: xs) s = between xs (applyTransaction x s) := goOn_next_of_none h _

/-- A fault recorded at a gap's start has ended the run. -/
theorem between_of_some (xs : List Transaction) {s : State} {f : Fault} (h : s.fault = some f) :
    between xs s = .fault f := by cases xs <;> exact goOn_next_of_some h _

/-- A gap of readouts changes nothing. -/
theorem between_readouts {xs : List Transaction} (hx : ∀ x ∈ xs, isReadout x = true) {s : State} (hf : s.fault = none) :
    between xs s = .next s := by
  induction xs with
  | nil => exact between_nil hf
  | cons x xs ih =>
    rw [between_cons hf, applyTransaction_readout (hx x (by simp)), ih (fun y hy => hx y (by simp [hy]))]

/-- What every transaction keeps, a gap keeps, and no fault is recorded where it ends. -/
theorem between_keeps {P : State → Prop}
    (hx : ∀ x s, P s → (applyTransaction x s).fault = none → P (applyTransaction x s))
    {xs : List Transaction} {s t : State} (hs : s.fault = none → P s) (e : between xs s = .next t) :
    t.fault = none ∧ P t := by
  induction xs generalizing s with
  | nil => obtain ⟨u, hu, hf, ht⟩ := goOn_next e; cases hu; cases ht; exact ⟨hf, hs hf⟩
  | cons x xs ih =>
    obtain ⟨u, hu, hf, e⟩ := goOn_next e
    cases hu
    exact ih (hx x s (hs hf)) e

/-- A run of no cycles observes its launch state. -/
theorem runWith_nil {s : State} (h : s.fault = none) : runWith [] s = .next s := between_nil h

@[simp] theorem runWith_cons (xs : List Transaction) (h : Schedule) (s : State) :
    runWith (xs :: h) s = goOn (between xs s) (fun t => goOn (step t) (runWith h)) := rfl

/-- A run launched with a fault recorded has ended. -/
theorem runWith_of_some (h : Schedule) {s : State} {f : Fault} (hf : s.fault = some f) : runWith h s = .fault f := by
  cases h with
  | nil => exact between_of_some [] hf
  | cons xs h => rw [runWith_cons, between_of_some xs hf, goOn_fault]

/-- The induction of a run, once: what every transaction and every step keeps, a run keeps, and a run that does not end at
a fault leaves a state with none recorded. -/
theorem runWith_keeps {P : State → Prop}
    (hx : ∀ x s, P s → (applyTransaction x s).fault = none → P (applyTransaction x s))
    (hs : ∀ s t, P s → step s = .next t → t.fault = none → P t)
    {h : Schedule} {s t : State} (hp : P s) (e : runWith h s = .next t) : t.fault = none ∧ P t := by
  induction h generalizing s with
  | nil => exact between_keeps hx (fun _ => hp) e
  | cons xs h ih =>
    obtain ⟨u, eb, -, e⟩ := goOn_next e
    obtain ⟨w, es, hf, e⟩ := goOn_next e
    exact ih (hs u w (between_keeps hx (fun _ => hp) eb).2 es hf) e

/-- A run of two schedules one after the other is the run of the second from where the first ends. -/
theorem runWith_append (h g : Schedule) (s : State) : runWith (h ++ g) s = goOn (runWith h s) (runWith g) := by
  induction h generalizing s with
  | nil =>
    cases hf : s.fault with
    | none => rw [List.nil_append, runWith_nil hf, goOn_next_of_none hf]
    | some f => rw [runWith_of_some _ hf, runWith_of_some _ hf, goOn_fault]
  | cons xs h ih =>
    rw [List.cons_append, runWith_cons, runWith_cons, show runWith (h ++ g) = _ from funext ih]
    simp only [goOn_assoc]

end Sys2Proof.Machine
end

