-- ==== Sys2Proof/Tests/Slice0.lean ====
section
/-! SUPPORT. The model's own tests. Expected results come from 95_test_vectors.md (the vector's name stands beside each)
and from the encodings of 30_encoding.md and opcode_table.json, written out bit by bit; none is the model's own answer. The
last part shows, for each statement that has hypotheses, a state and operands that meet them. -/

namespace Sys2Proof.Tests

set_option Elab.async false

open Sys2Proof Sys2Proof.Machine

/-! ## Helpers -/

/-- The word decodes to the instruction. -/
def decodesTo (w : Word) (i : Instr) : Bool :=
  match decodeWord w with
  | .ok j => decide (j = i)
  | .error _ => false

/-- The word is UnsupportedOpcode. -/
def unsupported (w : Word) : Bool :=
  match decodeWord w with
  | .ok _ => false
  | .error e => decide (e = .unsupportedOpcode)

/-- Some registers set. -/
def withRegs (rs : List (Reg × Byte)) (s : State) : State := rs.foldl (fun s r => s.setReg r.1 r.2) s

/-- The reset state with some registers set. -/
def start (rs : List (Reg × Byte)) : State := withRegs rs State.reset

/-- The state after one cycle that runs a word placed at pc has the property. -/
def after (s : State) (w : Nat) (p : State → Bool) : Bool :=
  match step (s.withFetchWord 16 w) with
  | .next t => p t
  | _ => false

/-- Memory from an address on holds these bytes. -/
def holds (s : State) (a : Nat) (bs : List Byte) : Bool :=
  (List.range bs.length).all (fun k => decide (some (s.readByte (a + k)) = bs[k]?))

/-- Some keys pressed. -/
def press (ks : List Key) (s : State) : State := ks.foldl (fun s k => setKey k true s) s

/-- These pixels, as (row, column), are 1. -/
def lit (ps : List (Fin 32 × Fin 64)) (fb : FrameBuffer) : Bool := ps.all fun p => pixel fb p.1 p.2

/-- These pixels are 0. -/
def dark (ps : List (Fin 32 × Fin 64)) (fb : FrameBuffer) : Bool := ps.all fun p => !pixel fb p.1 p.2

/-- The reset state under FONT_STORE_POLICY = fault. -/
def strict (s : State) : State := { s with config := { s.config with fontStorePolicy := .fault } }

/-- The reset state with a sprite at 0x300, I there, and the origin in V0 (column) and V1 (row). -/
def easel (sprite : List Byte) (x0 y0 : Byte) : State :=
  { (start [(0, x0), (1, y0)]).writeBytes 0x300 sprite with i := 0x300 }

/-! ## Decoding: a word of every row of opcode_table.json, bit by bit -/

theorem test_decode_group0 :
    decodesTo 0b0000_0000_1110_0000 (.cls 0) ∧ decodesTo 0b0000_0101_1110_0000 (.cls 5) ∧
    decodesTo 0b0000_0000_1110_1110 (.ret 0) ∧ decodesTo 0b0000_1111_1110_1110 (.ret 15) := by decide

theorem test_decode_jumps :
    decodesTo 0b0001_0010_0011_0100 (.jp 0x234) ∧ decodesTo 0b0010_0010_0000_0100 (.call 0x204) ∧
    decodesTo 0b1011_0011_0000_0000 (.jpV0 0x300) := by decide

theorem test_decode_skips :
    decodesTo 0b0011_0011_0100_0010 (.seImm 3 0x42) ∧ decodesTo 0b0100_0011_0100_0010 (.sneImm 3 0x42) ∧
    decodesTo 0b0101_0001_0010_1111 (.seReg 1 2 15) ∧ decodesTo 0b1001_0001_0010_0101 (.sneReg 1 2 5) := by decide

theorem test_decode_immediates :
    decodesTo 0b0110_1010_1001_1100 (.ldImm 10 0x9C) ∧ decodesTo 0b0111_0000_0000_0010 (.addImm 0 2) ∧
    decodesTo 0b1100_0011_0000_1111 (.rnd 3 0x0F) := by decide

theorem test_decode_group8 :
    decodesTo 0b1000_0001_0010_0000 (.ldReg 1 2) ∧ decodesTo 0b1000_0001_0010_0001 (.orReg 1 2) ∧
    decodesTo 0b1000_0001_0010_0010 (.andReg 1 2) ∧ decodesTo 0b1000_0001_0010_0011 (.xorReg 1 2) ∧
    decodesTo 0b1000_0001_0010_0100 (.addReg 1 2) ∧ decodesTo 0b1000_0001_0010_0101 (.sub 1 2) ∧
    decodesTo 0b1000_0001_1111_0110 (.shr 1 15) ∧ decodesTo 0b1000_0001_0010_0111 (.subn 1 2) ∧
    decodesTo 0b1000_0001_0000_1110 (.shl 1 0) := by decide

theorem test_decode_index_and_draw :
    decodesTo 0b1010_0011_0000_0000 (.ldI 0x300) ∧ decodesTo 0b1101_0001_0010_1010 (.drw 1 2 10) := by decide

theorem test_decode_groupE :
    decodesTo 0b1110_0010_1001_1110 (.skp 2) ∧ decodesTo 0b1110_0010_1010_0001 (.sknp 2) := by decide

theorem test_decode_groupF :
    decodesTo 0b1111_0011_0000_0111 (.ldVxDt 3) ∧ decodesTo 0b1111_0101_0000_1010 (.ldVxK 5) ∧
    decodesTo 0b1111_0000_0001_0101 (.ldDtVx 0) ∧ decodesTo 0b1111_0100_0001_1000 (.ldStVx 4) ∧
    decodesTo 0b1111_0010_0001_1110 (.addI 2) ∧ decodesTo 0b1111_0000_0010_1001 (.ldF 0) ∧
    decodesTo 0b1111_0101_0011_0011 (.ldB 5) ∧ decodesTo 0b1111_0010_0101_0101 (.ldMemFromRegs 2) ∧
    decodesTo 0b1111_0010_0110_0101 (.ldRegsFromMem 2) := by decide

/-- E-4, E-9, E-10, E-12. -/
theorem test_decode_unsupported :
    ([0x0000, 0x0123, 0x00E1, 0x00FF, 0x8008, 0x8009, 0x800A, 0x800B, 0x800C, 0x800D, 0x800F, 0xE09F, 0xE0A0, 0xE000,
      0xF000, 0xF008, 0xF0FF, 0xF075, 0xF030] : List Word).all unsupported = true := by decide

/-- The bytes of CALL 0x204 in memory order, with a rest; a single byte is no instruction. -/
theorem test_decode_bytes :
    decodeBytes [0x22, 0x04, 0x12] = .ok (.call 0x204, [0x12]) ∧ decodeBytes [0x22] = .error .truncated := ⟨rfl, rfl⟩

theorem test_table_word : decodeTableWord 16 0x2204 = some (.call 0x204) ∧ decodeTableWord 16 0 = none := by decide

/-! ## WellFormed refuses -/

/-- Words of the four rows of R75. -/
theorem test_wellformed_refuses_words :
    wordSupported 0x0000 = false ∧ wordSupported 0x8008 = false ∧ wordSupported 0xE09F = false ∧
    wordSupported 0xF000 = false := by decide

/-- The seven aliases of R76. -/
theorem test_wellformed_refuses_aliases :
    (Instr.cls 5).canonical = false ∧ (Instr.ret 15).canonical = false ∧ (Instr.seReg 1 2 15).canonical = false ∧
    (Instr.sneReg 1 2 5).canonical = false ∧ (Instr.shr 1 15).canonical = false ∧
    (Instr.shl 1 2).canonical = false := by decide

/-- E-13, group by group: how many of a group's words are unsupported. -/
theorem test_wellformed_counts :
    ((List.range 256).filter (fun nn => !wordSupported (BitVec.ofNat 16 nn))).length * 16 = 4064 ∧
    ((List.range 256).filter (fun nn => !wordSupported (BitVec.ofNat 16 (0x8000 + nn)))).length * 16 = 1792 ∧
    ((List.range 256).filter (fun nn => !wordSupported (BitVec.ofNat 16 (0xE000 + nn)))).length * 16 = 4064 ∧
    ((List.range 256).filter (fun nn => !wordSupported (BitVec.ofNat 16 (0xF000 + nn)))).length * 16 = 3952 := by
  decide +kernel

/-! ## The cycle -/

/-- S-13, S-15, C-7. -/
theorem test_unsupported_word_faults :
    after { State.reset with delayTimer := 5, soundTimer := 1 } 0x0000 (fun t =>
      t.fault == some .unsupportedOpcode && t.pc == 0x202 && t.delayTimer == 4 && t.soundTimer == 0) = true := by
  decide +kernel

/-- C-1 to C-3. -/
theorem test_early_faults :
    after { State.reset with pc := 0x1000, delayTimer := 3, redraw := true } 0 (fun t =>
      t.fault == some .programCounterOutOfRange && t.delayTimer == 3 && t.redraw && t.pc == 0x1000) ∧
    after { State.reset with sp := 16, delayTimer := 3 } 0 (fun t =>
      t.fault == some .stackPointerOutOfRange && t.delayTimer == 3) ∧
    after { State.reset with pc := 0x201, delayTimer := 3, redraw := true } 0 (fun t =>
      t.fault == some .addressValueIsNotEven && t.delayTimer == 2 && !t.redraw && t.pc == 0x201) := by decide +kernel

/-- C-4, C-5, C-8. -/
theorem test_timers_and_latch :
    after { State.reset with redraw := true } 0x6000 (fun t => t.delayTimer == 0 && t.soundTimer == 0 && !t.redraw) ∧
    after { State.reset with delayTimer := 1, soundTimer := 2 } 0x6000 (fun t =>
      t.delayTimer == 0 && t.soundTimer == 1) := by decide +kernel

/-- C-6: no step is admitted after a fault. -/
theorem test_fault_is_sticky : step { State.reset with fault := some .addressValueIsNotEven } = .fault .addressValueIsNotEven :=
  rfl

/-! ## Memory and the host's transactions -/

/-- M-1, M-2, S-16. -/
theorem test_host_reads_and_writes :
    hostRead 0x1234 (hostWrite 0x5A 0x234 State.reset) = 0x5A ∧
    hostRead 0x005 (hostWrite 0xAB 0xF005 (strict State.reset)) = 0xAB := by decide +kernel

/-- The bytes two addresses hold after a write_opcode, or its fault. -/
def wrote (op a : Nat) (p q : Nat) : Option (Byte × Byte) × Option Fault :=
  match hostWriteOpcode op a State.reset with
  | .ok t => (some (t.readByte p, t.readByte q), none)
  | .error f => (none, some f)

/-- M-5 to M-9. -/
theorem test_write_opcode :
    wrote 0x1ABCD 0xFFE 0xFFE 0xFFF = (some (0xAB, 0xCD), none) ∧ wrote 0x6001 0x1200 0x200 0x201 = (some (0x60, 0x01), none) ∧
    wrote 0x1234 0x1FF 0 0 = (none, some .addressValueIsNotEven) ∧ wrote 0x1234 0x1FE 0 0 = (none, some .addressOutOfRange) ∧
    wrote 0x1234 0x1000 0 0 = (none, some .addressOutOfRange) := by decide +kernel

/-- What a read_opcode returns. -/
def fetched (s : State) (a : Nat) : Option Word × Option Fault :=
  match hostReadOpcode a s with
  | .ok w => (some w, none)
  | .error f => (none, some f)

/-- M-3, M-4. -/
theorem test_read_opcode :
    fetched (State.reset.writeBytes 0x200 [0x12, 0x34]) 0x1200 = (some 0x1234, none) ∧
    fetched State.reset 0x201 = (none, some .addressValueIsNotEven) := by decide +kernel

/-- M-12, and M-13: a load resets; the word after an empty load is unsupported. -/
theorem test_load :
    (let t := (hostLoad [0x00, 0xE0] { start [(3, 9)] with sp := 2, delayTimer := 7 }).2
     holds t 0x200 [0x00, 0xE0, 0x00] && holds t 0 [0xF0, 0x90, 0x90, 0x90, 0xF0, 0x20] && t.reg 3 == 0 && decide (t.sp = -1) &&
       t.delayTimer == 0 && t.pc == 0x200) = true ∧
    (match step (hostLoad [] State.reset).2 with
     | .next t => t.fault == some .unsupportedOpcode && t.pc == 0x202
     | _ => false) = true := by decide +kernel

/-- M-11. -/
theorem test_load_too_long :
    (hostLoad (List.replicate 3585 0) State.reset).1 = some .addressOutOfRange ∧
    faultCode (hostLoad (List.replicate 3585 0) State.reset).2 = 1 := by
  decide +kernel

/-- A write of a cell's reset contents unlists it, so the memory is the reset memory again. -/
theorem test_memory_is_canonical :
    (hostWrite 0xF0 0x000 (hostWrite 0x12 0x000 State.reset)).mem = [] ∧
    (hostWrite 1 0x300 (hostWrite 2 0x400 State.reset)).mem = [(0x300, 1), (0x400, 2)] := by decide +kernel

/-! ## Control flow -/

/-- CF-1, CF-3. -/
theorem test_ret :
    after { State.reset with sp := 0, stack := State.reset.stack.set 0 0x206, pc := 0x212 } 0x00EE (fun t =>
      t.pc == 0x206 && decide (t.sp = -1) && t.stack[0] == 0x206 && t.fault == none) ∧
    after { State.reset with sp := 0, stack := State.reset.stack.set 0 0x300 } 0x01EE (fun t =>
      t.pc == 0x300 && decide (t.sp = -1)) := by decide +kernel

/-- CF-2. -/
theorem test_ret_empty : after State.reset 0x00EE (fun t =>
    t.fault == some .stackPointerOutOfRange && t.pc == 0x202 && decide (t.sp = -1)) = true := by decide +kernel

/-- CF-4, CF-5. -/
theorem test_jp :
    after State.reset 0x1234 (fun t => t.pc == 0x234) ∧
    after { State.reset with delayTimer := 5 } 0x1201 (fun t => t.pc == 0x201 && t.delayTimer == 4) := by decide +kernel

/-- CF-6. -/
theorem test_call : after State.reset 0x2204 (fun t =>
    decide (t.sp = 0) && t.stack[0] == 0x202 && t.pc == 0x204) = true := by decide +kernel

/-- CF-7. -/
theorem test_call_full :
    after { State.reset with sp := 15, stack := State.reset.stack.set 15 0x222, pc := 0x210 } 0x2300 (fun t =>
      t.fault == some .stackPointerOutOfRange && t.pc == 0x212 && decide (t.sp = 15) && t.stack[15] == 0x222) = true := by
  decide +kernel

/-- CF-8, CF-13. -/
theorem test_se_imm :
    after (start [(3, 0x42)]) 0x3342 (fun t => t.pc == 0x204) ∧ after (start [(3, 0x43)]) 0x3342 (fun t => t.pc == 0x202) ∧
    after { State.reset with pc := 0xFFE } 0x3000 (fun t => t.pc == 0x1002) := by decide +kernel

/-- CF-9. -/
theorem test_sne_imm :
    after (start [(3, 0x42)]) 0x4342 (fun t => t.pc == 0x202) ∧
    after (start [(3, 0x41)]) 0x4342 (fun t => t.pc == 0x204) := by decide +kernel

/-- CF-10, CF-11. -/
theorem test_se_reg :
    after { start [(1, 7), (2, 7)] with pc := 0x300 } 0x5121 (fun t => t.pc == 0x304) ∧
    after { start [(1, 7), (2, 8)] with pc := 0x300 } 0x5120 (fun t => t.pc == 0x302) ∧
    after { start [(1, 7)] with pc := 0x300 } 0x5110 (fun t => t.pc == 0x304) := by decide +kernel

/-- CF-12. -/
theorem test_sne_reg :
    after { start [(1, 7), (2, 8)] with pc := 0x300 } 0x9120 (fun t => t.pc == 0x304) ∧
    after { start [(1, 7)] with pc := 0x300 } 0x9110 (fun t => t.pc == 0x302) := by decide +kernel

/-- CF-14 to CF-16. -/
theorem test_jp_v0 :
    after (start [(0, 0x04)]) 0xB300 (fun t => t.pc == 0x304) ∧ after (start [(0, 0xFF)]) 0xBFFF (fun t => t.pc == 0x10FE) ∧
    after (start [(0, 0x01)]) 0xB200 (fun t => t.pc == 0x201) := by decide +kernel

/-! ## Register loads and the ALU -/

/-- A-1, A-2. -/
theorem test_ld_imm :
    after State.reset 0x6A9C (fun t => t.reg 10 == 0x9C) ∧ after (start [(15, 0x12)]) 0x6F34 (fun t => t.reg VF == 0x34) := by
  decide +kernel

/-- A-3, A-4. -/
theorem test_add_imm :
    after (start [(0, 0xFF), (15, 0x55)]) 0x7002 (fun t => t.reg 0 == 0x01 && t.reg VF == 0x55) ∧
    after (start [(15, 0xFF)]) 0x7F01 (fun t => t.reg VF == 0) := by decide +kernel

/-- A-6. -/
theorem test_ld_reg : after (start [(2, 0x33)]) 0x8120 (fun t => t.reg 1 == 0x33 && t.reg 2 == 0x33) = true := by
  decide +kernel

/-- A-7. -/
theorem test_or : after (start [(1, 0x0F), (2, 0xF0), (15, 0x77)]) 0x8121 (fun t =>
    t.reg 1 == 0xFF && t.reg VF == 0x77) = true := by decide +kernel

/-- A-8. -/
theorem test_and : after (start [(1, 0x3C), (2, 0x0F)]) 0x8122 (fun t => t.reg 1 == 0x0C) = true := by decide +kernel

/-- A-9, A-10. -/
theorem test_xor :
    after (start [(1, 0x3C), (2, 0x0F)]) 0x8123 (fun t => t.reg 1 == 0x33) ∧
    after (start [(1, 0x3C)]) 0x8113 (fun t => t.reg 1 == 0) := by decide +kernel

/-- A-11, A-12. -/
theorem test_add_reg :
    after (start [(1, 0xF0), (2, 0x20)]) 0x8124 (fun t => t.reg 1 == 0x10 && t.reg VF == 1) ∧
    after (start [(1, 0x7F), (2, 0x80)]) 0x8124 (fun t => t.reg 1 == 0xFF && t.reg VF == 0) := by decide +kernel

/-- A-15 to A-17. -/
theorem test_add_reg_flag_operand :
    after (start [(15, 0x10), (1, 0x05)]) 0x8F14 (fun t => t.reg VF == 0x15) ∧
    after (start [(1, 0xF0), (15, 0x20)]) 0x81F4 (fun t => t.reg 1 == 0x10 && t.reg VF == 1) ∧
    after (start [(15, 0x90)]) 0x8FF4 (fun t => t.reg VF == 0x20) := by decide +kernel

/-- A-18 to A-20. -/
theorem test_sub :
    after (start [(1, 0x10), (2, 0x20)]) 0x8125 (fun t => t.reg 1 == 0xF0 && t.reg VF == 0) ∧
    after (start [(1, 0x20), (2, 0x10)]) 0x8125 (fun t => t.reg 1 == 0x10 && t.reg VF == 1) ∧
    after (start [(1, 0x20), (2, 0x20)]) 0x8125 (fun t => t.reg 1 == 0x00 && t.reg VF == 0) := by decide +kernel

/-- A-21 to A-23. -/
theorem test_sub_flag_operand :
    after (start [(15, 0x05), (1, 0x03)]) 0x8F15 (fun t => t.reg VF == 0xFE) ∧
    after (start [(1, 0x05), (15, 0x03)]) 0x81F5 (fun t => t.reg 1 == 0x04 && t.reg VF == 1) ∧
    after (start [(15, 0x42)]) 0x8FF5 (fun t => t.reg VF == 0) := by decide +kernel

/-- A-24 to A-27. -/
theorem test_shr :
    after (start [(1, 0x05)]) 0x8106 (fun t => t.reg 1 == 0x02 && t.reg VF == 1) ∧
    after (start [(1, 0x80)]) 0x8106 (fun t => t.reg 1 == 0x40 && t.reg VF == 0) ∧
    after (start [(1, 0x03), (2, 0xFF)]) 0x8126 (fun t => t.reg 1 == 0x01 && t.reg VF == 1) ∧
    after (start [(15, 0xFF)]) 0x8F06 (fun t => t.reg VF == 0) := by decide +kernel

/-- A-28 to A-30. -/
theorem test_subn :
    after (start [(1, 0x10), (2, 0x30)]) 0x8127 (fun t => t.reg 1 == 0x20 && t.reg VF == 1) ∧
    after (start [(1, 0x30), (2, 0x10)]) 0x8127 (fun t => t.reg 1 == 0xE0 && t.reg VF == 0) ∧
    after (start [(1, 0x44), (2, 0x44)]) 0x8127 (fun t => t.reg 1 == 0x00 && t.reg VF == 0) := by decide +kernel

/-- A-31, A-32. -/
theorem test_subn_flag_operand :
    after (start [(15, 0x02), (1, 0x05)]) 0x8F17 (fun t => t.reg VF == 0x04) ∧
    after (start [(1, 0x02), (15, 0x05)]) 0x81F7 (fun t => t.reg 1 == 0xFF && t.reg VF == 1) := by decide +kernel

/-- A-33 to A-35. -/
theorem test_shl :
    after (start [(1, 0x81)]) 0x810E (fun t => t.reg 1 == 0x02 && t.reg VF == 0x80) ∧
    after (start [(1, 0x7F)]) 0x810E (fun t => t.reg 1 == 0xFE && t.reg VF == 0) ∧
    after (start [(15, 0xFF)]) 0x8F0E (fun t => t.reg VF == 0) := by decide +kernel

/-- A-36, A-38 for whatever the draw is: V[x] is the draw under the mask. -/
theorem test_rnd :
    exec (.rnd 3 0x0F) State.reset =
      .next { State.reset.setReg 3 (Config.rnd 0 &&& 0x0F) with draws := 1 } := rfl

/-! ## The index register and memory transfers -/

/-- X-1. -/
theorem test_ld_i : after State.reset 0xA300 (fun t => t.i == 0x300) = true := by decide +kernel

/-- X-2, X-3. -/
theorem test_add_i :
    after { start [(2, 2), (15, 9)] with i := 0xFFF } 0xF21E (fun t => t.i == 0x1001 && t.reg VF == 9) ∧
    after { start [(2, 1)] with i := 0xFFFF } 0xF21E (fun t => t.i == 0) := by decide +kernel

/-- X-4, X-5. -/
theorem test_ld_f :
    after (start [(0, 0x0A)]) 0xF029 (fun t => t.i == 50) ∧ after (start [(0, 0x1A)]) 0xF029 (fun t => t.i == 50) ∧
    after (start [(0, 0x0F)]) 0xF029 (fun t => t.i == 75) := by decide +kernel

/-- X-6, X-8. -/
theorem test_ld_b :
    after { start [(5, 156)] with i := 0x300 } 0xF533 (fun t => holds t 0x300 [1, 5, 6] && t.i == 0x300) ∧
    after { start [(5, 123)] with i := 0xFFF } 0xF533 (fun t => holds t 0xFFF [1, 2, 3, 0x90]) := by decide +kernel

/-- X-8 under FONT_STORE_POLICY = fault. -/
theorem test_ld_b_font_fault :
    after (strict { start [(5, 123)] with i := 0xFFF }) 0xF533 (fun t =>
      t.fault == some .fontRegionWrite && holds t 0xFFF [0, 0xF0, 0x90] && t.pc == 0x202) = true := by decide +kernel

/-- X-9, X-10. -/
theorem test_store_regs :
    after { (start [(0, 1), (1, 2), (2, 3)]).writeByte 0x403 0xEE with i := 0x400 } 0xF255 (fun t =>
      holds t 0x400 [1, 2, 3, 0xEE] && t.i == 0x400) ∧
    after { start [(0, 0x99)] with i := 0x400 } 0xF055 (fun t => holds t 0x3FF [0, 0x99, 0]) := by decide +kernel

/-- X-12. -/
theorem test_store_regs_font_fault :
    after (strict { start [(0, 7), (1, 8), (2, 9)] with i := 0x04E }) 0xF255 (fun t =>
      t.fault == some .fontRegionWrite && holds t 0x04E [0x80, 0x80, 0]) = true := by decide +kernel

/-- X-13, X-14. -/
theorem test_load_regs :
    after { (start [(3, 0x77)]).writeBytes 0x300 [1, 5, 6] with i := 0x300 } 0xF265 (fun t =>
      t.reg 0 == 1 && t.reg 1 == 5 && t.reg 2 == 6 && t.reg 3 == 0x77 && t.i == 0x300) ∧
    after { State.reset with i := 0x1001 } 0xFF65 (fun t => t.reg 0 == 0x90 && t.reg 4 == 0x20 && t.reg VF == 0x10) := by
  decide +kernel

/-! ## Display -/

/-- D-1, D-2. -/
theorem test_cls :
    after { start [(15, 3)] with fb := togglePixel (togglePixel clearedFb 5 5) 31 63 } 0x00E0 (fun t =>
      dark [(5, 5), (31, 63), (0, 0)] t.fb && t.reg VF == 3 && !t.redraw) ∧
    after { State.reset with fb := togglePixel clearedFb 0 0 } 0x03E0 (fun t => dark [(0, 0)] t.fb) := by decide +kernel

/-- D-5. -/
theorem test_drw_wraps :
    after (easel [0xF0, 0x90] 62 31) 0xD012 (fun t =>
      lit [(31, 62), (31, 63), (31, 0), (31, 1), (0, 62), (0, 1)] t.fb && dark [(31, 2), (0, 63), (0, 0), (1, 62)] t.fb &&
        t.reg VF == 0 && t.redraw) = true := by decide +kernel

/-- D-9, D-10. -/
theorem test_drw_collision :
    after { easel [0x80] 0 0 with fb := togglePixel clearedFb 0 0 } 0xD011 (fun t => dark [(0, 0)] t.fb && t.reg VF == 1) ∧
    after ((easel [0x80] 0 0).setReg VF 5) 0xDF11 (fun t => lit [(0, 5)] t.fb && t.reg VF == 0) := by decide +kernel

/-! ## Keys and timers -/

/-- K-1, K-2. -/
theorem test_skp :
    after (press [5] (start [(2, 0x15)])) 0xE29E (fun t => t.pc == 0x204) ∧
    after (start [(2, 5)]) 0xE29E (fun t => t.pc == 0x202) := by decide +kernel

/-- K-3. -/
theorem test_sknp :
    after (start [(2, 5)]) 0xE2A1 (fun t => t.pc == 0x204) ∧
    after (press [5] (start [(2, 5)])) 0xE2A1 (fun t => t.pc == 0x202) := by decide +kernel

/-- K-4. -/
theorem test_read_delay :
    after { State.reset with delayTimer := 10 } 0xF307 (fun t => t.delayTimer == 9 && t.reg 3 == 9) = true := by
  decide +kernel

/-- K-9, K-12. -/
theorem test_key_wait :
    after { press [3, 9] State.reset with pc := 0x206 } 0xF50A (fun t => t.reg 5 == 3 && t.pc == 0x208) ∧
    after { press [15] State.reset with pc := 0x206 } 0xF50A (fun t => t.reg 5 == 15) := by decide +kernel

/-- K-10. -/
theorem test_key_wait_none :
    after { start [(5, 0x44)] with pc := 0x206, delayTimer := 5, redraw := true } 0xF50A (fun t =>
      t.fault == none && t.pc == 0x206 && t.reg 5 == 0x44 && t.delayTimer == 4 && !t.redraw) = true := by decide +kernel

/-- K-6, its first cycle. -/
theorem test_set_delay :
    after { start [(0, 3)] with delayTimer := 9 } 0xF015 (fun t => t.delayTimer == 3) = true := by decide +kernel

/-- K-7. -/
theorem test_set_sound : after (start [(4, 0x3C)]) 0xF418 (fun t => t.soundTimer == 60) = true := by decide +kernel

/-! ## Runs -/

/-- A run observes a state with the property, or the fault. -/
def endsAs (r : Result) (p : State → Bool) (f : Option Fault) : Bool :=
  match r with
  | .next t => p t && f == none
  | .fault g => f == some g
  | .refused _ => false

/-- The wait of program P4, under a key schedule: key 7 pressed between the first cycle and the second. -/
theorem test_run_key_schedule :
    endsAs (runWith [[], [.setKey 7 true]] ((start []).withFetchWord 16 0xF20A)) (fun t =>
      t.reg 2 == 7 && t.pc == 0x202 && t.keys[7]) none ∧
    endsAs (runWith [[], []] ((start []).withFetchWord 16 0xF20A)) (fun t => t.reg 2 == 0 && t.pc == 0x200) none := by
  decide +kernel

/-- R203, R239: a run ends at a cycle's fault, with a reset after it no part of it, and M-11 at a failed load's. -/
theorem test_run_ends_at_fault :
    endsAs (runWith [[], [.reset]] State.reset) (fun _ => false) (some .unsupportedOpcode) ∧
    endsAs (runWith [[.load (List.replicate 3585 0), .reset]] State.reset) (fun _ => false) (some .addressOutOfRange) := by
  decide +kernel

/-- M-4, M-8: a transaction that fails without recording its fault changes nothing, and the run goes on. -/
theorem test_run_goes_on :
    endsAs (runWith [[.readOpcode 0x201, .writeOpcode 0x1234 0x1FE, .writeOpcode 0x6A9C 0x200]] State.reset) (fun t =>
      t.reg 10 == 0x9C && t.pc == 0x202 && t.readByte 0x1FE == 0) none = true := by decide +kernel

/-! ## Witnesses: for each statement with hypotheses, states and operands that meet them, at the edges of its clauses -/

/-- The reset state with a word at pc. -/
def at0 (w : Nat) : State := State.reset.withFetchWord 16 w

theorem admitted_at0 (w : Nat) : Admitted (at0 w) :=
  ⟨rfl, show resetPc.toNat < 0x1000 by decide, show -1 ≤ resetSp by decide, show resetSp ≤ 15 by decide⟩

theorem even_at0 (w : Nat) : (at0 w).pc.toNat % 2 = 0 := show resetPc.toNat % 2 = 0 by decide

theorem inv_reset : Inv State.reset := by
  refine ⟨Memory.wf_reset, show -1 ≤ resetSp ∧ resetSp ≤ 15 by decide, fun k => ?_, show resetPc.toNat ≤ 0x10FE by decide⟩
  show ((Vector.replicate 16 (0 : Word))[k]).toNat % 2 = 0 ∧ ((Vector.replicate 16 (0 : Word))[k]).toNat ≤ 0x1000
  simp

theorem witness_EncodeInvertsDecode : decodeWord 0x81F6 = .ok (.shr 1 15) := rfl

/-- The first and the last word of the range, and one on each side of the equivalence. -/
theorem witness_UnsupportedWordsAreExactlyThese :
    unsupported 0x0000 ∧ unsupported 0xFFFF ∧ decodesTo 0xF065 (.ldRegsFromMem 0) ∧ decodesTo 0x00E0 (.cls 0) := by decide

/-- The second clause, and the third: no row matches 0x0000. -/
theorem witness_DecoderFollowsTheOpcodeMap :
    (0x81F6 : Word) &&& (Instr.shr 0 0).tableRow.2 = (Instr.shr 0 0).tableRow.1 ∧
    ∀ i : Instr, (0x0000 : Word) &&& i.tableRow.2 ≠ i.tableRow.1 :=
  ⟨by decide, fun i => by cases i <;> simp [Instr.tableRow]⟩

/-- Both clauses: a word that decodes, and one that does not. -/
theorem witness_StepRunsTheDecodedInstruction :
    (Admitted (at0 0x6A9C) ∧ (at0 0x6A9C).pc.toNat % 2 = 0 ∧ decodesTo (wordAtPc (at0 0x6A9C)) (.ldImm 10 0x9C)) ∧
    (Admitted (at0 0x800F) ∧ (at0 0x800F).pc.toNat % 2 = 0 ∧ unsupported (wordAtPc (at0 0x800F))) :=
  ⟨⟨admitted_at0 _, even_at0 _, by decide +kernel⟩, ⟨admitted_at0 _, even_at0 _, by decide +kernel⟩⟩

/-- At the last even pc, with addresses on both sides of the two placed bytes. -/
theorem witness_PlacedInstructionIsFetched :
    Admitted { State.reset with pc := 0xFFE } ∧ (0xFFE : Word).toNat % 2 = 0 ∧ Memory.wf State.reset.config State.reset.mem ∧
    (0x000 % 0x1000 ≠ 0xFFE ∧ 0x000 % 0x1000 ≠ 0xFFE + 1) ∧ (0xFFD % 0x1000 ≠ 0xFFE ∧ 0xFFD % 0x1000 ≠ 0xFFE + 1) :=
  ⟨⟨rfl, by decide, show -1 ≤ resetSp by decide, show resetSp ≤ 15 by decide⟩, by decide, Memory.wf_reset, by decide,
    by decide⟩

/-- The three clauses: pc at 0x1000; pc at 0xFFF with sp at −2 and at 16; pc at 0xFFF with sp at −1 and at 15. -/
theorem witness_EarlyFaultsKeepTheEarlierEffects :
    State.reset.fault = none ∧ 0x1000 ≤ (0x1000 : Word).toNat ∧
    ((0xFFF : Word).toNat < 0x1000 ∧ ((-2 : Int) < -1 ∨ 15 < (-2 : Int)) ∧ ((16 : Int) < -1 ∨ 15 < (16 : Int))) ∧
    ((0xFFF : Word).toNat % 2 = 1 ∧ (-1 : Int) ≤ -1 ∧ (15 : Int) ≤ 15) := ⟨rfl, by decide, by decide, by decide⟩

/-- Its clauses: an odd pc; a word that is neither; Fx15; Fx18; Fx07. -/
theorem witness_TimersTickOncePerCycle :
    Admitted { State.reset with pc := 0x201 } ∧ (0x201 : Word).toNat % 2 = 1 ∧ Admitted (at0 0x6000) ∧
    decodesTo (wordAtPc (at0 0x6000)) (.ldImm 0 0) ∧ decodesTo (wordAtPc (at0 0xF315)) (.ldDtVx 3) ∧
    decodesTo (wordAtPc (at0 0xF318)) (.ldStVx 3) ∧ decodesTo (wordAtPc (at0 0xF307)) (.ldVxDt 3) :=
  ⟨⟨rfl, by decide, show -1 ≤ resetSp by decide, show resetSp ≤ 15 by decide⟩, by decide, admitted_at0 _,
    by decide +kernel, by decide +kernel, by decide +kernel, by decide +kernel⟩

/-- A cycle that draws and one that does not. -/
theorem witness_RedrawLatchReportsExactlyDraws :
    Admitted (at0 0xD011) ∧ decodesTo (wordAtPc (at0 0xD011)) (.drw 0 1 1) ∧ Admitted (at0 0x6000) ∧
    decodesTo (wordAtPc (at0 0x6000)) (.ldImm 0 0) :=
  ⟨admitted_at0 _, by decide +kernel, admitted_at0 _, by decide +kernel⟩

/-- A step of a word that is neither a call nor a return, nor Cxnn, to a next state. -/
theorem witness_OnlyCallAndReturnTouchTheStack :
    after State.reset 0x6A9C (fun _ => true) ∧ decodesTo (wordAtPc (at0 0x6A9C)) (.ldImm 10 0x9C) := by decide +kernel

theorem witness_StepNeverWritesKeysOrParameters :
    after State.reset 0x6A9C (fun _ => true) ∧ decodesTo (wordAtPc (at0 0x6A9C)) (.ldImm 10 0x9C) := by decide +kernel

/-- An I above 0xFFF, kept and reached; an instruction that neither reads nor writes I; the two that write it unread. -/
theorem witness_IndexIsWrittenOnlyByItsThree :
    (∃ t, exec (.addI 2) { start [(2, 2)] with i := 0xFFF } = .next t ∧ 0xFFF < t.i.toNat) ∧
    (∃ t, exec (.cls 0) { State.reset with i := 0xFFFF } = .next t ∧ 0xFFF < t.i.toNat) ∧
    (∃ t, exec (.ldI 0xFFF) State.reset = .next t) ∧ ∃ t, exec (.ldF 0) State.reset = .next t :=
  ⟨⟨_, rfl, by decide +kernel⟩, ⟨_, rfl, by decide +kernel⟩, ⟨_, rfl⟩, ⟨_, rfl⟩⟩

theorem witness_ProgramCounterAfterACycle :
    Admitted (at0 0x3000) ∧ (at0 0x3000).pc.toNat % 2 = 0 ∧ decodesTo (wordAtPc (at0 0x3000)) (.seImm 0 0) ∧
    after State.reset 0x3000 (fun t => t.fault == none) :=
  ⟨admitted_at0 _, even_at0 _, by decide +kernel, by decide +kernel⟩

/-- An instruction that is not Fx18, and Fx18. -/
theorem witness_SoundTimerIsNeverRead :
    (∃ t, exec (.ldVxDt 0) State.reset = .next t) ∧ ∃ t, exec (.ldStVx 0) State.reset = .next t := ⟨⟨_, rfl⟩, ⟨_, rfl⟩⟩

/-- A register that is not the destination; VF under an instruction that does not write it. -/
theorem witness_RegistersChangeOnlyAsDestinationOrFlag :
    (∃ t, exec (.addReg 1 2) State.reset = .next t) ∧ (0 : Reg) ∉ destinations (.addReg 1 2) ∧
    (∃ t, exec (.addImm 1 2) State.reset = .next t) ∧ VF ∉ destinations (.addImm 1 2) ∧ ¬ writesFlag (.addImm 1 2) :=
  ⟨⟨_, rfl⟩, by decide, ⟨_, rfl⟩, by decide, by simp [writesFlag]⟩

/-- One that does not fault, one of each that does (2nnn at sp 15 and −2, 00EE at −1 and 16, Fx33 and Fx55 whose last target
alone wraps into the font region). -/
theorem witness_InstructionFaultsAreExactlyThese :
    (∃ t, exec (.cls 0) State.reset = .next t) ∧
    (¬ ((-1 : Int) ≤ 15 ∧ (15 : Int) ≤ 14) ∧ ¬ ((-1 : Int) ≤ -2 ∧ (-2 : Int) ≤ 14)) ∧
    (¬ ((0 : Int) ≤ -1 ∧ (-1 : Int) ≤ 15) ∧ ¬ ((0 : Int) ≤ 16 ∧ (16 : Int) ≤ 15)) ∧
    (∃ t, exec (.call 0) { State.reset with sp := 15 } = .next t ∧ t.fault = some .stackPointerOutOfRange) ∧
    (∃ t, exec (.ret 0) State.reset = .next t ∧ t.fault = some .stackPointerOutOfRange) ∧
    (strict State.reset).config.fontStorePolicy = .fault ∧ (∃ k, k < 3 ∧ ((0xFFE : Word).toNat + k) % 0x1000 ≤ 0x04F) ∧
    (∃ k, k ≤ (2 : Reg).val ∧ ((0xFFE : Word).toNat + k) % 0x1000 ≤ 0x04F) ∧
    (∃ t, exec (.ldB 0) (strict State.reset) = .next t ∧ t.fault = some .fontRegionWrite) ∧
    ∃ t, exec (.ldMemFromRegs 0) (strict State.reset) = .next t ∧ t.fault = some .fontRegionWrite :=
  ⟨⟨_, rfl⟩, by decide, by decide, ⟨_, rfl, rfl⟩, ⟨_, rfl, rfl⟩, rfl, ⟨2, by decide⟩, ⟨2, by decide⟩, ⟨_, rfl, rfl⟩,
    ⟨_, rfl, rfl⟩⟩

theorem witness_StepKeepsTheInvariant : Inv State.reset ∧ ∃ t, step State.reset = .next t := ⟨inv_reset, ⟨_, rfl⟩⟩

/-- Each transaction that can fail, not failing, the longest load too; and a run with transactions between its cycles. -/
theorem witness_TransactionsKeepTheInvariant :
    Inv State.reset ∧ (∃ t, hostWriteOpcode 0x1234 0x200 State.reset = .ok t) ∧
    (∃ t, hostLoad [0x00, 0xE0] State.reset = (none, t)) ∧ (List.replicate 3584 (0 : Byte)).length ≤ 3584 ∧
    endsAs (runWith [[.load [0x00, 0xE0], .setKey 3 true], []] State.reset) (fun _ => false) (some .unsupportedOpcode) ∧
    endsAs (runWith [[.load [0x00, 0xE0], .setKey 3 true]] State.reset) (fun t => t.keys[3]) none :=
  ⟨inv_reset, ⟨_, rfl⟩, ⟨_, rfl⟩, by decide +kernel, by decide +kernel, by decide +kernel⟩

theorem witness_HostWriteIsReadBack : Memory.wf State.reset.config State.reset.mem := Memory.wf_reset

/-- Two that read alike, and one that reads otherwise and so is not among them. -/
theorem witness_MemoriesThatReadAlikeAreEqual :
    Memory.wf State.reset.config [(0x200, 1)] ∧
    (∀ a, a < 0x1000 → Memory.read State.reset.config [(0x200, 1)] a = Memory.read State.reset.config [(0x200, 1)] a) ∧
    Memory.read State.reset.config [(0x200, 1)] 0x200 ≠ Memory.read State.reset.config [] 0x200 :=
  ⟨by decide +kernel, fun _ _ => rfl, by decide +kernel⟩

/-- The clauses at their edges: 0x1FF, 0x1FE, 0x200 and 0xFFE for a write, 0xFFF and 0x000 for a read. -/
theorem witness_WriteOpcodeChecksThenWrites :
    0x1FF % 0x1000 % 2 = 1 ∧ (0x1FE % 0x1000 % 2 = 0 ∧ 0x1FE % 0x1000 < 0x200) ∧
    (0x200 % 0x1000 % 2 = 0 ∧ 0x200 ≤ 0x200 % 0x1000) ∧ (0xFFE % 0x1000 % 2 = 0 ∧ 0x200 ≤ 0xFFE % 0x1000) ∧
    Memory.wf State.reset.config State.reset.mem ∧ 0xFFF % 0x1000 % 2 = 1 ∧ 0x1000 % 0x1000 % 2 = 0 :=
  ⟨by decide, by decide, by decide, by decide, Memory.wf_reset, by decide, by decide⟩

/-- Both clauses: 3585 bytes and 3584, with the first and last byte, and the cells before and after a shorter load. -/
theorem witness_LoadResetsThenCopies :
    3584 < (List.replicate 3585 (0 : Byte)).length ∧ (List.replicate 3584 (0 : Byte)).length ≤ 3584 ∧
    3583 < (List.replicate 3584 (0 : Byte)).length ∧ 0x1FF < 0x200 ∧
    (0x200 + [(1 : Byte)].length ≤ 0x201 ∧ 0x201 < 0x1000) := by decide +kernel

theorem witness_FailedLoadStopsTheMachine : 3584 < (List.replicate 3585 (0 : Byte)).length := by decide +kernel

/-- The cells at the two ends of the font region and of the rest. -/
theorem witness_ResetGivesEveryElementItsValue : 79 < 80 ∧ 0x050 ≤ 0x050 ∧ 0x050 ≤ 0xFFF ∧ 0xFFF < 0x1000 := by decide

/-- A push at −1 and at 14; the fault at 15 and at −2. -/
theorem witness_CallPushesAndJumps :
    after State.reset 0x2204 (fun t => t.fault == none) ∧
    after { State.reset with sp := 14 } 0x2204 (fun t => t.fault == none && decide (t.sp = 15)) ∧
    after { State.reset with sp := 15 } 0x2204 (fun t => t.fault == some .stackPointerOutOfRange) ∧
    (∃ t, exec (.call 0) { State.reset with sp := -2 } = .next t ∧ t.fault = some .stackPointerOutOfRange) :=
  ⟨by decide +kernel, by decide +kernel, by decide +kernel, ⟨_, rfl, rfl⟩⟩

/-- A pop at 0 and at 15; the fault at −1 and at 16. -/
theorem witness_ReturnPopsThePc :
    ({ State.reset with sp := 0 } : State).sp = ((0 : Fin 16).val : Int) ∧
    ({ State.reset with sp := 15 } : State).sp = ((15 : Fin 16).val : Int) ∧ State.reset.sp < 0 ∧
    (15 : Int) < ({ State.reset with sp := 16 } : State).sp :=
  ⟨rfl, rfl, show resetSp < 0 by decide, show (15 : Int) < 16 by decide⟩

/-- An odd jump; an indexed jump to 0x1000 and to the last odd target below it. -/
theorem witness_JumpsSetThePc :
    State.reset.fault = none ∧ (-1 ≤ resetSp ∧ resetSp ≤ 15) ∧ (0x201 : Addr).toNat % 2 = 1 ∧
    0x1000 ≤ ((start [(0, 1)]).reg 0).toNat + (0xFFF : Addr).toNat ∧
    ((State.reset.reg 0).toNat + (0xFFF : Addr).toNat < 0x1000 ∧
      ((State.reset.reg 0).toNat + (0xFFF : Addr).toNat) % 2 = 1) := by decide +kernel

/-- Taken skips at the last word. -/
theorem witness_ImmediateSkips :
    (∃ t, exec (.seImm 0 0) { State.reset with pc := 0x1000 } = .next t ∧ t.fault = none ∧ 0x1000 ≤ t.pc.toNat) ∧
    ∃ t, exec (.sneImm 0 1) { State.reset with pc := 0x1000 } = .next t ∧ t.fault = none ∧ 0x1000 ≤ t.pc.toNat :=
  ⟨⟨_, rfl, rfl, by decide +kernel⟩, ⟨_, rfl, rfl, by decide +kernel⟩⟩

/-- A state that steps, and a `set_key` for another key. -/
theorem witness_SetKeySetsOneLatch :
    (∃ t, step State.reset = .next t) ∧ Transaction.setKey 4 true ≠ .reset ∧
    (∀ bytes, Transaction.setKey 4 true ≠ .load bytes) ∧ ∀ q, Transaction.setKey 4 true ≠ .setKey 3 q :=
  ⟨⟨_, rfl⟩, by decide, by simp, by simp⟩

theorem witness_ImmediateLoadAndAdd : (1 : Reg) ≠ VF := by decide

theorem witness_CopyAndBitwise : (1 : Reg) ≠ VF := by decide

theorem witness_AddWithCarry : (1 : Reg) ≠ VF := by decide

/-- x and y on each side of VF. -/
theorem witness_SubtractClosedForms :
    ((1 : Reg) ≠ VF ∧ (14 : Reg) ≠ VF) ∧ ((1 : Reg) ≠ VF ∧ (15 : Reg) = VF) ∧ ((15 : Reg) = VF ∧ (1 : Reg) ≠ VF) ∧
    ((15 : Reg) = VF ∧ (15 : Reg) = VF) := by decide

/-- x and y on each side of VF. -/
theorem witness_ReverseSubtractClosedForms :
    ((1 : Reg) ≠ VF ∧ (14 : Reg) ≠ VF) ∧ ((1 : Reg) ≠ VF ∧ (15 : Reg) = VF) ∧ ((15 : Reg) = VF ∧ (1 : Reg) ≠ VF) ∧
    ((15 : Reg) = VF ∧ (15 : Reg) = VF) := by decide

theorem witness_ShiftsByOnePlace : (14 : Reg) ≠ VF ∧ (15 : Reg) = VF := by decide

theorem witness_RandomTakesOneDrawUnderTheMask : (0 : Byte) = 0 ∧ (14 : Reg) ≠ VF := by decide

/-- Write-through with I in the font region; the fault policy with the first target just past it. -/
theorem witness_BcdStoresTheDecimalDigits :
    Memory.wf State.reset.config State.reset.mem ∧ State.reset.config.fontStorePolicy = .writeThrough ∧
    Memory.wf (strict State.reset).config (strict State.reset).mem ∧
    ∀ k, k < 3 → 0x04F < ((0x050 : Word).toNat + k) % 0x1000 :=
  ⟨Memory.wf_reset, rfl, Memory.wf_reset, by decide⟩

/-- Write-through with I in the font region; the fault policy with the last target just below the wrap. -/
theorem witness_RegistersAreStoredFromIndex :
    Memory.wf State.reset.config State.reset.mem ∧ State.reset.config.fontStorePolicy = .writeThrough ∧
    Memory.wf (strict State.reset).config (strict State.reset).mem ∧
    ∀ k, k ≤ (15 : Reg).val → 0x04F < ((0xFF0 : Word).toNat + k) % 0x1000 :=
  ⟨Memory.wf_reset, rfl, Memory.wf_reset, by decide⟩

/-- A block whose last byte alone wraps into the font region, one whose first alone lies there, and Fx33 likewise. -/
theorem witness_FontPolicyFaultsBeforeAnyStore :
    (strict State.reset).config.fontStorePolicy = .fault ∧ (∃ k, k < 3 ∧ ((0xFFE : Word).toNat + k) % 0x1000 ≤ 0x04F) ∧
    (∃ k, k < 3 ∧ ((0x04F : Word).toNat + k) % 0x1000 ≤ 0x04F) ∧
    (∃ k, k ≤ (15 : Reg).val ∧ ((0xFF1 : Word).toNat + k) % 0x1000 ≤ 0x04F) :=
  ⟨rfl, ⟨2, by decide⟩, ⟨0, by decide⟩, ⟨15, by decide⟩⟩

/-- Registers at, below and above x. -/
theorem witness_RegistersAreLoadedFromIndex : (0 : Reg) ≤ 0 ∧ (0 : Reg) ≤ 14 ∧ (14 : Reg) < 15 := by decide

/-- The two flag clauses: a covered pixel that is 1, and no covered pixel that is 1. -/
theorem witness_DrawIsPointwiseXor :
    (pixel (togglePixel clearedFb 0 0) 0 0 = true ∧ spriteCovers (fun _ => 0x80) 0 0 1 0 0 = true) ∧
    ∀ row col, pixel State.reset.fb row col = true → spriteCovers (fun _ => 0x80) 0 0 1 row col = false :=
  ⟨by decide +kernel, fun row col h => by
    have : pixel State.reset.fb row col = false := pixel_clearedFb row col
    rw [this] at h; cases h⟩

/-- A clear screen, and a sprite that covers a pixel, wrapping. -/
theorem witness_DrawingTwiceRestoresTheScreen :
    (∀ row col, pixel State.reset.fb row col = false) ∧ spriteCovers (fun _ => 0xF0) 62 31 2 0 1 = true :=
  ⟨pixel_clearedFb, by decide +kernel⟩

/-- A lowest key with another above it, key 15 alone, and no key. -/
theorem witness_KeyWaitTakesTheLowestKeyOrRewinds :
    ((press [3, 9] State.reset).keys[(3 : Key)] = true ∧ ∀ j : Key, j < 3 → (press [3, 9] State.reset).keys[j] = false) ∧
    ((press [15] State.reset).keys[(15 : Key)] = true ∧ ∀ j : Key, j < 15 → (press [15] State.reset).keys[j] = false) ∧
    ∀ k : Key, State.reset.keys[k] = false := by decide +kernel

theorem witness_FrameOfRegisterOperations :
    (∃ t, exec (.addImm 1 2) State.reset = .next t) ∧ ∃ t, exec (.sub 1 15) State.reset = .next t := ⟨⟨_, rfl⟩, ⟨_, rfl⟩⟩

theorem witness_FrameOfControlTransfers :
    (∃ t, exec (.jp 0x234) State.reset = .next t) ∧ (∃ t, exec (.call 0x204) State.reset = .next t) ∧
    ((-1 : Int) ≤ 14 ∧ ∃ t, exec (.call 0x204) { State.reset with sp := 14 } = .next t) ∧
    ((0 : Int) ≤ 15 ∧ ∃ t, exec (.ret 0) { State.reset with sp := 15 } = .next t) :=
  ⟨⟨_, rfl⟩, ⟨_, rfl⟩, ⟨by decide, _, rfl⟩, ⟨by decide, _, rfl⟩⟩

theorem witness_FrameOfIndexTimerKeyAndRandom :
    (∃ t, exec (.addI 2) State.reset = .next t) ∧ (∃ t, exec (.ldDtVx 0) State.reset = .next t) ∧
    (∃ t, exec (.ldStVx 0) State.reset = .next t) ∧ (∃ t, exec (.rnd 3 0x0F) State.reset = .next t) ∧
    (∃ t, exec (.ldVxK 5) State.reset = .next t) ∧ ∃ t, exec (.ldVxK 5) (press [3] State.reset) = .next t :=
  ⟨⟨_, rfl⟩, ⟨_, rfl⟩, ⟨_, rfl⟩, ⟨_, rfl⟩, ⟨_, rfl⟩, ⟨_, rfl⟩⟩

/-- Under each policy: write-through with I in the font region, and fault with every target above it. -/
theorem witness_FrameOfMemoryTransfers :
    (State.reset.config.fontStorePolicy = .writeThrough ∧ ∃ t, exec (.ldB 5) State.reset = .next t) ∧
    ((∀ k, k ≤ (2 : Reg).val → 0x04F < effAddr (strict { State.reset with i := 0x050 }) k) ∧
      ∃ t, exec (.ldMemFromRegs 2) (strict { State.reset with i := 0x050 }) = .next t ∧ t.fault = none) ∧
    ∃ t, exec (.ldRegsFromMem 2) State.reset = .next t :=
  ⟨⟨rfl, _, rfl⟩, ⟨by decide +kernel, _, rfl, rfl⟩, ⟨_, rfl⟩⟩

theorem witness_FrameOfDisplay :
    (∃ t, exec (.cls 0) State.reset = .next t) ∧ ∃ t, exec (.drw 0 1 5) State.reset = .next t := ⟨⟨_, rfl⟩, ⟨_, rfl⟩⟩

theorem witness_KeyWaitCompletesEveryCycle :
    Admitted (at0 0xF50A) ∧ (at0 0xF50A).pc.toNat % 2 = 0 ∧ decodesTo (wordAtPc (at0 0xF50A)) (.ldVxK 5) ∧
    (∀ k : Key, (at0 0xF50A).keys[k] = false) ∧ OnlyReads [] ∧ OnlyReads [[.redrawRead, .fbRead], []] :=
  ⟨admitted_at0 _, even_at0 _, by decide +kernel, by decide +kernel, by unfold OnlyReads; decide,
    by unfold OnlyReads; decide⟩

theorem witness_JumpToItselfHolds :
    Admitted (at0 0x1200) ∧ (at0 0x1200).pc.toNat % 2 = 0 ∧ decodesTo (wordAtPc (at0 0x1200)) (.jp 0x200) ∧
    (0x200 : Addr).toNat = (at0 0x1200).pc.toNat ∧ OnlyReads [] ∧ OnlyReads [[.redrawRead, .fbRead], []] :=
  ⟨admitted_at0 _, even_at0 _, by decide +kernel, by decide +kernel, by unfold OnlyReads; decide,
    by unfold OnlyReads; decide⟩

/-- CF-18: the halt idiom, three cycles, the delay timer at 2. -/
theorem test_halt_idiom :
    (match Sys2Proof.core.run 3 { at0 0x1200 with delayTimer := 2 } with
     | .next t => decide (State.pc t = 0x200) && decide (State.delayTimer t = 0)
     | _ => false) = true := by decide +kernel

end Sys2Proof.Tests
end

section
/-! PROOFS. 10_state.md: what reset gives each element (R40), and pc after a cycle (R24). -/

namespace Sys2Proof.Machine

/-! ## The state after reset (R40) -/

/-- After reset every cell holds its reset contents (R40, R52). -/
theorem hostReset_readByte (s : State) (a : Nat) :
    (hostReset s).readByte a = Memory.background s.config (cell a) := rfl

theorem Memory.background_font (c : Config) {a : Nat} (h : a < 80) : Memory.background c a = c.fontData[a] :=
  dif_pos h

theorem Memory.background_outside (c : Config) {a : Nat} (h : Config.fontEnd ≤ a) : Memory.background c a = 0 :=
  dif_neg (Nat.not_lt.2 h)

@[simp] theorem hostReset_reg (s : State) (r : Reg) : (hostReset s).reg r = 0 := by
  simp [hostReset, State.resetWith, State.reg]

theorem hostReset_stack (s : State) (k : Fin 16) : (hostReset s).stack[k] = 0 := by
  simp [hostReset, State.resetWith]

theorem hostReset_keys (s : State) (k : Key) : (hostReset s).keys[k] = false := by
  simp [hostReset, State.resetWith]

@[simp] theorem hostReset_fb (s : State) : (hostReset s).fb = clearedFb := rfl

@[simp] theorem hostReset_pc (s : State) : (hostReset s).pc = 0x200 := rfl

/-- Settles O29: memory element by element, the scalar elements by computation. -/
theorem resetGivesEveryElementItsValue : Obligations.ResetGivesEveryElementItsValue := by
  intro s
  have hfont (a : Nat) (h : a < 80) : (hostReset s).readByte a = s.config.fontData[a] := by
    rw [hostReset_readByte, cell_of_lt (h.trans (by decide)), Memory.background_font _ h]
  have hzero (a : Nat) (hl : 0x050 ≤ a) (hu : a < 0x1000) : (hostReset s).readByte a = 0 := by
    rw [hostReset_readByte, cell_of_lt hu, Memory.background_outside _ hl]
  have hpixel (row : Fin 32) (col : Fin 64) : pixel (hostReset s).fb row col = false := by
    rw [hostReset_fb, pixel_clearedFb]
  exact ⟨hfont, hzero, hostReset_reg s, rfl, hostReset_pc s, hostReset_stack s, rfl, rfl, rfl, hpixel,
    hostReset_keys s, rfl, rfl, rfl⟩

/-! ## pc after a cycle (R24) -/

/-- The advance of step 6 is exact below 0x1000 (R25). -/
theorem advancePc_pc_toNat {s : State} (hp : s.pc.toNat < 0x1000) : (advancePc s).pc.toNat = s.pc.toNat + 2 := by
  rw [advancePc_pc]; bv_omega

/-- A skip on top of the advance is exact too (R25). -/
theorem skipIf_advancePc_pc_toNat {s : State} (c : Bool) (hp : s.pc.toNat < 0x1000) :
    ((advancePc s).skipIf c).pc.toNat = if c = true then s.pc.toNat + 4 else s.pc.toNat + 2 := by
  rw [State.skipIf_pc, advancePc_pc]
  split <;> bv_omega

theorem absolute_toNat (nnn : Addr) : (absolute nnn).toNat = nnn.toNat := by
  unfold absolute; bv_omega

/-- The indexed jump's sum is exact (R107). -/
theorem indexedTarget_toNat (s : State) (nnn : Addr) : (indexedTarget s nnn).toNat = (s.reg 0).toNat + nnn.toNat := by
  unfold indexedTarget; bv_omega

/-- A block store leaves pc alone, whether it stores or faults (R143, R144). -/
theorem storeBlock_pc {s t : State} {xs : List Byte} (h : storeBlock s xs = .next t) : t.pc = s.pc := by
  rcases storeBlock_cases s xs with ⟨-, he⟩ | ⟨-, he⟩
  · cases he.symm.trans h; rfl
  · cases he.symm.trans h; rfl

/-- A return that does not fault leaves the popped entry in pc (R100). -/
theorem execRet_pc {x : Reg} {s t : State} (h : execRet x s = .next t) (hf : t.fault = none) :
    t.pc = s.stack[s.sp.toNat]?.getD 0 := by
  unfold execRet at h
  split at h
  next a u hpop =>
    obtain ⟨ok, rfl, rfl⟩ := pop_some hpop
    cases h
    have hlt : s.sp.toNat < 16 := by omega
    simp [hlt]
  next => cases h; cases hf

/-- A call that does not fault leaves its target in pc (R102). -/
theorem execCall_pc {nnn : Addr} {s t : State} (h : execCall nnn s = .next t) (hf : t.fault = none) :
    t.pc = absolute nnn := by
  unfold execCall at h
  split at h
  next => cases h; rfl
  next => cases h; cases hf

/-- The key wait takes the step-6 advance back while no key is pressed, and otherwise leaves pc alone (R163). -/
theorem execLdVxK_pc {x : Reg} {s t : State} (h : execLdVxK x s = .next t) :
    t.pc = if ∀ k : Key, s.keys[k] = false then s.pc - 2 else s.pc := by
  unfold execLdVxK at h
  split at h
  next k hk =>
    have hpressed : ¬ ∀ j : Key, s.keys[j] = false := fun hn => by simp [(lowestPressed_none_iff s).2 hn] at hk
    cases h
    rw [if_neg hpressed]; rfl
  next hk =>
    cases h
    rw [if_pos ((lowestPressed_none_iff s).1 hk)]; rfl

/-- R24's table: an instruction run on the prepared state with pc advanced, and not faulting, leaves pc as `pcAfter` says
of the state before the cycle. -/
theorem exec_pc_toNat {i : Instr} {s t : State} (hp : s.pc.toNat < 0x1000)
    (h : exec i (advancePc (prepared s)) = .next t) (hf : t.fault = none) : t.pc.toNat = pcAfter i s := by
  have hadv : (advancePc (prepared s)).pc.toNat = s.pc.toNat + 2 := advancePc_pc_toNat hp
  have hskip (c : Bool) := skipIf_advancePc_pc_toNat (s := prepared s) c hp
  cases i with
  | seImm | sneImm | seReg | sneReg | sknp => cases h; rw [hskip]; simp [pcAfter, keyIndex]
  | skp => cases h; exact hskip _
  | jp nnn => cases h; exact absolute_toNat nnn
  | call nnn => rw [execCall_pc h hf]; exact absolute_toNat nnn
  | jpV0 nnn => cases h; exact indexedTarget_toNat _ nnn
  | ret x => rw [execRet_pc (x := x) h hf]; rfl
  | ldVxK =>
    have hback : ((advancePc (prepared s)).pc - 2).toNat = s.pc.toNat := by bv_omega
    rw [execLdVxK_pc h, apply_ite BitVec.toNat, hback, hadv]; rfl
  | ldB | ldMemFromRegs => rw [storeBlock_pc h]; exact hadv
  | cls | ldImm | addImm | ldReg | orReg | andReg | xorReg | addReg | sub | shr | subn | shl | ldI | rnd | drw
  | ldVxDt | ldDtVx | ldStVx | addI | ldF | ldRegsFromMem => cases h; exact hadv

/-- Settles O15: the cycle runs the decoded instruction on the advanced state, and `exec_pc_toNat` is R24's table. -/
theorem programCounterAfterACycle : Obligations.ProgramCounterAfterACycle := by
  refine ⟨fun s t i ha he hd hs => ?_, hostReset_pc⟩
  have ⟨_, hp, _⟩ := ha
  have hstep : step s = exec i (advancePc (prepared s)) := by rw [step_of_even ha he, dispatch_ok hd]
  exact ⟨hstep, advancePc_pc_toNat hp, exec_pc_toNat hp (hstep ▸ hs)⟩

end Sys2Proof.Machine
end

section
/-! PROOFS. 20_memory.md: a byte read (R53), `read_opcode` and `write_opcode` (R55, R56), and `load` (R63). -/

namespace Sys2Proof.Machine

/-! ## Byte reads (R53) -/

/-- Settles O23: the mask of R53 is `cell`, and reading a masked address is reading the address. -/
theorem byteReadsMaskTheAddress : Obligations.ByteReadsMaskTheAddress :=
  fun s a => ⟨(Memory.read_cell s.config s.mem a).symm, rfl⟩

/-! ## A word as two bytes (R59) -/

theorem wordOfBytes_toNat (hi lo : Byte) : (wordOfBytes hi lo).toNat = hi.toNat * 0x100 + lo.toNat :=
  append_toNat hi lo

theorem highByte_toNat (w : Word) : (highByte w).toNat = w.toNat / 0x100 % 0x100 := by
  rw [highByte, BitVec.extractLsb'_toNat, Nat.shiftRight_eq_div_pow]

theorem lowByte_toNat (w : Word) : (lowByte w).toNat = w.toNat % 0x100 := by
  rw [lowByte, BitVec.extractLsb'_toNat, Nat.shiftRight_zero]

/-- The mask of `write_opcode`'s word drops no bit of its two bytes (R56). -/
theorem highByte_ofNat_toNat (op : Nat) : (highByte (BitVec.ofNat 16 op)).toNat = op / 0x100 % 0x100 := by
  rw [highByte_toNat, BitVec.toNat_ofNat]; omega

theorem lowByte_ofNat_toNat (op : Nat) : (lowByte (BitVec.ofNat 16 op)).toNat = op % 0x100 := by
  rw [lowByte_toNat, BitVec.toNat_ofNat]; omega

/-! ## The two cells of a word (R55, R56) -/

/-- The cell after an even one does not wrap: the last cell is odd (R51). -/
theorem cell_succ_of_even {a : Nat} (h : cell a % 2 = 0) : cell (a + 1) = cell a + 1 := by
  simp only [cell, Config.memSize] at *; omega

theorem State.readByte_cell_succ {a : Nat} (h : cell a % 2 = 0) (s : State) :
    s.readByte (cell a + 1) = s.readByte (a + 1) := by
  rw [← cell_succ_of_even h, State.readByte_cell]

theorem fetchWord_of_odd {a : Nat} (h : cell a % 2 = 1) (s : State) :
    fetchWord s a = .error .addressValueIsNotEven := if_pos h

/-- A word is read at the address itself: the mask of R55 is that of the two byte reads. -/
theorem fetchWord_of_even {a : Nat} (h : cell a % 2 = 0) (s : State) :
    fetchWord s a = .ok (wordOfBytes (s.readByte a) (s.readByte (a + 1))) := by
  rw [fetchWord, if_neg (by omega), State.readByte_cell, State.readByte_cell_succ h]

/-- Two bytes stored at a masked even address are read back there, and no other cell changes. -/
theorem readByte_writeBytes_pair {s : State} (w : Memory.wf s.config s.mem) {a : Nat} (h : cell a % 2 = 0)
    (hi lo : Byte) :
    (s.writeBytes (cell a) [hi, lo]).readByte a = hi ∧ (s.writeBytes (cell a) [hi, lo]).readByte (a + 1) = lo ∧
    ∀ b, cell b ≠ cell a → cell b ≠ cell a + 1 → (s.writeBytes (cell a) [hi, lo]).readByte b = s.readByte b := by
  have inside {k : Nat} (hk : k < [hi, lo].length) :=
    State.readByte_writeBytes_inside s (cell a) [hi, lo] w (by simp [Config.memSize]) hk
  refine ⟨?_, ?_, fun b h0 h1 => ?_⟩
  · rw [← State.readByte_cell]; exact inside (k := 0) (by simp)
  · rw [← State.readByte_cell_succ h]; exact inside (k := 1) (by simp)
  · refine State.readByte_writeBytes_outside s _ _ fun k hk => ?_
    match k, hk with
    | 0, _ => rw [Nat.add_zero, cell_cell]; exact h0.symm
    | 1, _ => rw [← cell_succ_of_even h, cell_cell, cell_succ_of_even h]; exact h1.symm

/-! ## `write_opcode` (R56) -/

theorem hostWriteOpcode_of_odd {a : Nat} (h : cell a % 2 = 1) (op : Nat) (s : State) :
    hostWriteOpcode op a s = .error .addressValueIsNotEven := if_pos h

theorem hostWriteOpcode_of_low {a : Nat} (h : cell a % 2 = 0) (low : cell a < Config.programBase) (op : Nat)
    (s : State) : hostWriteOpcode op a s = .error .addressOutOfRange := by
  dsimp only [hostWriteOpcode]; rw [if_neg (by omega), if_pos low]

theorem hostWriteOpcode_of_fits {a : Nat} (h : cell a % 2 = 0) (fits : Config.programBase ≤ cell a) (op : Nat)
    (s : State) : hostWriteOpcode op a s =
      .ok (s.writeBytes (cell a) [highByte (BitVec.ofNat 16 op), lowByte (BitVec.ofNat 16 op)]) := by
  dsimp only [hostWriteOpcode]; rw [if_neg (by omega), if_neg (by omega)]

/-- Settles O26: one lemma per check of R56, and the two stored bytes read back one by one and as the word. -/
theorem writeOpcodeChecksThenWrites : Obligations.WriteOpcodeChecksThenWrites := by
  intro s op a
  refine ⟨fun odd => hostWriteOpcode_of_odd odd op s, fun even low => hostWriteOpcode_of_low even low op s,
    fun even fits w => ?_, fun odd => fetchWord_of_odd odd s, fun even => ?_⟩
  · obtain ⟨readHi, readLo, readElse⟩ :=
      readByte_writeBytes_pair w even (highByte (BitVec.ofNat 16 op)) (lowByte (BitVec.ofNat 16 op))
    refine ⟨_, hostWriteOpcode_of_fits even fits op s, rfl, ?_, ?_, readElse, ?_⟩
    · rw [readHi, highByte_ofNat_toNat]
    · rw [readLo, lowByte_ofNat_toNat]
    · rw [hostReadOpcode, fetchWord_of_even even, readHi, readLo, wordOfBytes_bytes]
  · refine ⟨_, fetchWord_of_even even s, ?_⟩
    have readHi : s.readByte (a % 0x1000) = s.readByte a := s.readByte_cell a
    have readLo : s.readByte (a % 0x1000 + 1) = s.readByte (a + 1) := s.readByte_cell_succ even
    rw [wordOfBytes_toNat, readHi, readLo]

/-! ## `load` (R63) -/

theorem Memory.wf_hostReset (s : State) : Memory.wf (hostReset s).config (hostReset s).mem :=
  ⟨List.Pairwise.nil, fun _ h => nomatch h⟩

theorem hostLoad_of_long {bytes : List Byte} (h : Config.programMaxLen < bytes.length) (s : State) :
    (hostLoad bytes s).1 = some .addressOutOfRange := by rw [hostLoad, if_pos h]

theorem hostLoad_of_fits {bytes : List Byte} (h : bytes.length ≤ Config.programMaxLen) (s : State) :
    hostLoad bytes s = (none, (hostReset s).writeBytes Config.programBase bytes) := if_neg (Nat.not_lt.2 h)

/-- A load that fits does not wrap, so it stores in 0x200 to 0x200 + L − 1 only (R62, R63). -/
theorem cell_programBase_add_ne {len k a : Nat} (fits : len ≤ Config.programMaxLen) (hk : k < len)
    (out : a < 0x200 ∨ 0x200 + len ≤ a ∧ a < 0x1000) : cell (Config.programBase + k) ≠ cell a := by
  simp only [cell, Config.memSize, Config.programBase, Config.programMaxLen] at *; omega

/-- Settles O27: the length check, then the block store on the reset state, read inside and outside the block. -/
theorem loadResetsThenCopies : Obligations.LoadResetsThenCopies := by
  intro s bytes
  refine ⟨fun long => hostLoad_of_long long s, fun fits => ⟨_, hostLoad_of_fits fits s, rfl, fun k hk => ?_,
    fun a out => ?_⟩⟩
  · have len : bytes.length ≤ Config.memSize := fits.trans (by decide)
    exact State.readByte_writeBytes_inside _ _ _ (Memory.wf_hostReset s) len hk
  · exact State.readByte_writeBytes_outside _ _ _ fun k hk => cell_programBase_add_ne fits hk out

end Sys2Proof.Machine
end

section
/-! PROOFS. 30_encoding.md: the fields of a word (R71), and the decoder as the opcode map (R74). -/

namespace Sys2Proof

/-! ## The fields as slices (R71) -/

/-- Settles O5: each field is the remainder its slice stands for, and the overlaps are arithmetic on those. -/
theorem fieldsAreTheStatedSlices : Obligations.FieldsAreTheStatedSlices := by
  intro w
  have hw : w.toNat < 0x10000 := w.isLt
  rw [fieldG_toNat, fieldX_val, fieldY_val, fieldN_toNat, fieldNN_toNat, fieldNNN_toNat]
  omega

/-! ## The opcode table's masks (R74): each keeps the fields a row is selected by, and clears the others -/

/-- A mask applies field by field. -/
theorem append_and {m k : Nat} {a a' c : BitVec m} {b b' d : BitVec k} (hl : a &&& a' = c) (hr : b &&& b' = d) :
    (a ++ b) &&& (a' ++ b') = c ++ d := by rw [BitVec.and_append, hl, hr]

theorem and_maskG (w : Word) : w &&& 0xF000 = packN12 (fieldG w) 0 :=
  calc w &&& 0xF000
    _ = packN12 (fieldG w) (fieldNNN w) &&& packN12 0xF 0 := by rw [packN12_fields]; rfl
    _ = packN12 (fieldG w) 0 := append_and BitVec.and_allOnes BitVec.and_zero

theorem and_maskGN (w : Word) : w &&& 0xF00F = packXYN (fieldG w) 0 0 (fieldN w) :=
  calc w &&& 0xF00F
    _ = packXYN (fieldG w) (fieldX w) (fieldY w) (fieldN w) &&& packXYN 0xF 0 0 0xF := by rw [packXYN_fields]; rfl
    _ = packXYN (fieldG w) 0 0 (fieldN w) :=
      append_and (append_and (append_and BitVec.and_allOnes BitVec.and_zero) BitVec.and_zero) BitVec.and_allOnes

theorem and_maskGNN (w : Word) : w &&& 0xF0FF = packXNN (fieldG w) 0 (fieldNN w) :=
  calc w &&& 0xF0FF
    _ = packXNN (fieldG w) (fieldX w) (fieldNN w) &&& packXNN 0xF 0 0xFF := by rw [packXNN_fields]; rfl
    _ = packXNN (fieldG w) 0 (fieldNN w) :=
      append_and (append_and BitVec.and_allOnes BitVec.and_zero) BitVec.and_allOnes

/-- The word is one of the row's: under the row's mask it is the row's match. -/
def MeetsRow (w : Word) (i : Instr) : Prop := w &&& i.tableRow.2 = i.tableRow.1

section
variable {w m : Word} {i : Instr}

/-! A word meets a row exactly when the fields that select the row agree with the match. The match has no bit outside
its mask. -/

/-- A row selected by its group alone. -/
theorem meetsRow_iff_group (hr : i.tableRow = (m, 0xF000)) (hm : m &&& 0xF000 = m) :
    MeetsRow w i ↔ (fieldG w).toNat = (fieldG m).toNat := by
  simp only [MeetsRow, hr, BitVec.toNat_inj]
  constructor
  · rintro rfl; rw [and_maskG, fieldG_packN12]
  · intro hg; rw [← hm, and_maskG, and_maskG, hg]

/-- A row selected by its group and `n`. -/
theorem meetsRow_iff_group_n (hr : i.tableRow = (m, 0xF00F)) (hm : m &&& 0xF00F = m) :
    MeetsRow w i ↔ (fieldG w).toNat = (fieldG m).toNat ∧ (fieldN w).toNat = (fieldN m).toNat := by
  simp only [MeetsRow, hr, BitVec.toNat_inj]
  constructor
  · rintro rfl; rw [and_maskGN, fieldG_packXYN, fieldN_packXYN]; exact ⟨rfl, rfl⟩
  · rintro ⟨hg, hn⟩; rw [← hm, and_maskGN, and_maskGN, hg, hn]

/-- A row selected by its group and `nn`. -/
theorem meetsRow_iff_group_nn (hr : i.tableRow = (m, 0xF0FF)) (hm : m &&& 0xF0FF = m) :
    MeetsRow w i ↔ (fieldG w).toNat = (fieldG m).toNat ∧ (fieldNN w).toNat = (fieldNN m).toNat := by
  simp only [MeetsRow, hr, BitVec.toNat_inj]
  constructor
  · rintro rfl; rw [and_maskGNN, fieldG_packXNN, fieldNN_packXNN]; exact ⟨rfl, rfl⟩
  · rintro ⟨hg, hnn⟩; rw [← hm, and_maskGNN, and_maskGNN, hg, hnn]

/-! ## Dispatch on the group (R73, R74) -/

theorem decodeWord_of_group0 (h : (fieldG w).toNat = 0x0) : decodeWord w = decodeGroup0 w := by rw [decodeWord, h]; rfl
theorem decodeWord_of_group8 (h : (fieldG w).toNat = 0x8) : decodeWord w = decodeGroup8 w := by rw [decodeWord, h]; rfl
theorem decodeWord_of_groupE (h : (fieldG w).toNat = 0xE) : decodeWord w = decodeGroupE w := by rw [decodeWord, h]; rfl
theorem decodeWord_of_groupF (h : (fieldG w).toNat = 0xF) : decodeWord w = decodeGroupF w := by rw [decodeWord, h]; rfl

end

/-- What the map allows a decoder to answer for a word: an instruction whose row the word meets, or
UnsupportedOpcode. -/
def FollowsMap (w : Word) : Except DecodeError Instr → Prop
  | .ok i => MeetsRow w i
  | .error e => e = .unsupportedOpcode

section
variable {w : Word}

theorem decodeGroup0_followsMap (hg : (fieldG w).toNat = 0x0) : FollowsMap w (decodeGroup0 w) := by
  unfold decodeGroup0
  split
  case h_3 => rfl
  all_goals next hnn => refine (meetsRow_iff_group_nn rfl rfl).2 ?_; exact ⟨hg, hnn⟩

theorem decodeGroup8_followsMap (hg : (fieldG w).toNat = 0x8) : FollowsMap w (decodeGroup8 w) := by
  unfold decodeGroup8
  split
  case h_10 => rfl
  all_goals next hn => refine (meetsRow_iff_group_n rfl rfl).2 ?_; exact ⟨hg, hn⟩

theorem decodeGroupE_followsMap (hg : (fieldG w).toNat = 0xE) : FollowsMap w (decodeGroupE w) := by
  unfold decodeGroupE
  split
  case h_3 => rfl
  all_goals next hnn => refine (meetsRow_iff_group_nn rfl rfl).2 ?_; exact ⟨hg, hnn⟩

theorem decodeGroupF_followsMap (hg : (fieldG w).toNat = 0xF) : FollowsMap w (decodeGroupF w) := by
  unfold decodeGroupF
  split
  case h_10 => rfl
  all_goals next hnn => refine (meetsRow_iff_group_nn rfl rfl).2 ?_; exact ⟨hg, hnn⟩

end

/-- The decoder never answers against the map (R74). -/
theorem decodeWord_followsMap (w : Word) : FollowsMap w (decodeWord w) := by
  unfold decodeWord
  split
  case h_1 hg => exact decodeGroup0_followsMap hg
  case h_9 hg => exact decodeGroup8_followsMap hg
  case h_15 hg => exact decodeGroupE_followsMap hg
  case h_16 =>
    have hlt : (fieldG w).toNat < 16 := (fieldG w).isLt
    have hg : (fieldG w).toNat = 0xF := by simp only [imp_false] at *; omega
    exact decodeGroupF_followsMap hg
  all_goals next hg => refine (meetsRow_iff_group rfl rfl).2 ?_; exact hg

/-- A word that meets a row decodes to an instruction of that row (R74). -/
theorem decodeWord_of_meetsRow {w : Word} {i : Instr} (h : MeetsRow w i) :
    ∃ j, decodeWord w = .ok j ∧ j.tableRow = i.tableRow := by
  cases i with
  | jp | call | seImm | sneImm | seReg | ldImm | addImm | sneReg | ldI | jpV0 | rnd | drw =>
    have hg := (meetsRow_iff_group rfl rfl).1 h
    rw [decodeWord, hg]; exact ⟨_, rfl, rfl⟩
  | ldReg | orReg | andReg | xorReg | addReg | sub | shr | subn | shl =>
    obtain ⟨hg, hn⟩ := (meetsRow_iff_group_n rfl rfl).1 h
    rw [decodeWord_of_group8 hg, decodeGroup8, hn]; exact ⟨_, rfl, rfl⟩
  | cls | ret =>
    obtain ⟨hg, hnn⟩ := (meetsRow_iff_group_nn rfl rfl).1 h
    rw [decodeWord_of_group0 hg, decodeGroup0, hnn]; exact ⟨_, rfl, rfl⟩
  | skp | sknp =>
    obtain ⟨hg, hnn⟩ := (meetsRow_iff_group_nn rfl rfl).1 h
    rw [decodeWord_of_groupE hg, decodeGroupE, hnn]; exact ⟨_, rfl, rfl⟩
  | ldVxDt | ldVxK | ldDtVx | ldStVx | addI | ldF | ldB | ldMemFromRegs | ldRegsFromMem =>
    obtain ⟨hg, hnn⟩ := (meetsRow_iff_group_nn rfl rfl).1 h
    rw [decodeWord_of_groupF hg, decodeGroupF, hnn]; exact ⟨_, rfl, rfl⟩

/-- Settles O4: the decoder never answers against the map, and answers with the row a word meets. -/
theorem decoderFollowsTheOpcodeMap : Obligations.DecoderFollowsTheOpcodeMap := by
  intro w
  have hmap := decodeWord_followsMap w
  refine ⟨fun i hd => by rwa [hd] at hmap, fun i => decodeWord_of_meetsRow, fun hnone => ?_⟩
  cases hd : decodeWord w with
  | ok i => rw [hd] at hmap; exact absurd hmap (hnone i)
  | error e => rw [hd] at hmap; exact congrArg _ hmap

end Sys2Proof
end

section
/-! PROOFS. 30_encoding.md: the cycle around an instruction (R80 to R88), and the timers' tick (R83). -/

namespace Sys2Proof.Machine

/-! ## The cycle around an instruction (R80, R87) -/

/-- An admitted cycle at an odd pc faults at step 5, after the latch and the timers (R84, R88). -/
theorem step_of_odd {s : State} (h : Admitted s) (ho : s.pc.toNat % 2 = 1) :
    step s = .next { prepared s with fault := some .addressValueIsNotEven } := by
  obtain ⟨hf, hp, hl, hu⟩ := h
  rcases step_cases s with ⟨f, h, -⟩ | ⟨-, h, -⟩ | ⟨-, -, h, -⟩ | ⟨-, -, h⟩ | ⟨-, h, -⟩
  · simp [hf] at h
  · omega
  · omega
  · exact h
  · omega

/-- A cycle whose word decodes runs its instruction on the prepared state with pc advanced (R87). -/
theorem step_of_decoded {s : State} {i : Instr} (h : Admitted s) (he : s.pc.toNat % 2 = 0)
    (hd : decodeWord (wordAtPc s) = .ok i) : step s = exec i (advancePc (prepared s)) := by
  rw [step_of_even h he, dispatch_ok hd]

/-- A cycle whose word has no handler leaves the prepared state with pc advanced (R87, R88). -/
theorem step_of_undecoded {s : State} {e : DecodeError} (h : Admitted s) (he : s.pc.toNat % 2 = 0)
    (hd : decodeWord (wordAtPc s) = .error e) :
    step s = .next { advancePc (prepared s) with fault := some .unsupportedOpcode } := by
  rw [step_of_even h he, dispatch_error hd]

/-- Settles O7: the statement writes out `advancePc (prepared s)` field by field. -/
theorem stepRunsTheDecodedInstruction : Obligations.StepRunsTheDecodedInstruction :=
  fun _ ha he => ⟨fun _ hd => step_of_decoded ha he hd, fun _ hd => step_of_undecoded ha he hd⟩

/-! ## What instructions leave of the timers (R83) -/

/-- The result is a next state with both timers as they were. -/
def KeepsTimers (s : State) (r : Result) : Prop :=
  ∃ t, r = .next t ∧ t.delayTimer = s.delayTimer ∧ t.soundTimer = s.soundTimer

theorem execRet_keepsTimers (x : Reg) (s : State) : KeepsTimers s (execRet x s) := by
  unfold execRet
  split
  next a t hpop => obtain ⟨-, -, rfl⟩ := pop_some hpop; exact ⟨_, rfl, rfl, rfl⟩
  next => exact ⟨_, rfl, rfl, rfl⟩

theorem execCall_keepsTimers (nnn : Addr) (s : State) : KeepsTimers s (execCall nnn s) := by
  unfold execCall
  split
  next t hpush => obtain ⟨-, rfl⟩ := push_some hpush; exact ⟨_, rfl, rfl, rfl⟩
  next => exact ⟨_, rfl, rfl, rfl⟩

theorem execLdVxK_keepsTimers (x : Reg) (s : State) : KeepsTimers s (execLdVxK x s) := by
  unfold execLdVxK
  split
  next => exact ⟨_, rfl, rfl, rfl⟩
  next => exact ⟨_, rfl, rfl, rfl⟩

theorem storeBlock_keepsTimers (s : State) (xs : List Byte) : KeepsTimers s (storeBlock s xs) := by
  rcases storeBlock_cases s xs with ⟨-, h⟩ | ⟨-, h⟩
  · exact ⟨_, h, rfl, rfl⟩
  · exact ⟨_, h, rfl, rfl⟩

theorem skipIf_keepsTimers (s : State) (c : Bool) : KeepsTimers s (.next (s.skipIf c)) :=
  ⟨_, rfl, s.skipIf_delayTimer c, s.skipIf_soundTimer c⟩

/-- Only Fx15 and Fx18 write a timer (R164, R165). -/
theorem exec_keepsTimers {i : Instr} (hd : ∀ x, i ≠ .ldDtVx x) (hs : ∀ x, i ≠ .ldStVx x) (s : State) :
    KeepsTimers s (exec i s) := by
  cases i with
  | ldDtVx x => exact absurd rfl (hd x)
  | ldStVx x => exact absurd rfl (hs x)
  | ret x => exact execRet_keepsTimers x s
  | call nnn => exact execCall_keepsTimers nnn s
  | ldVxK x => exact execLdVxK_keepsTimers x s
  | ldB | ldMemFromRegs => exact storeBlock_keepsTimers s _
  | seImm | sneImm | seReg | sneReg | skp | sknp => exact skipIf_keepsTimers s _
  | cls | jp | ldImm | addImm | ldReg | orReg | andReg | xorReg | addReg | sub | shr | subn | shl | ldI | jpV0 | rnd
  | drw | ldVxDt | addI | ldF | ldRegsFromMem => exact ⟨_, rfl, rfl, rfl⟩

/-- Every instruction answers a next state; the delay timer changes only by Fx15, the sound timer only by Fx18. -/
theorem exec_timers (i : Instr) (s : State) : ∃ t, exec i s = .next t ∧
    ((∀ x, i ≠ .ldDtVx x) → t.delayTimer = s.delayTimer) ∧ ((∀ x, i ≠ .ldStVx x) → t.soundTimer = s.soundTimer) := by
  by_cases hd : ∃ x, i = .ldDtVx x
  · obtain ⟨x, rfl⟩ := hd
    exact ⟨_, rfl, fun h => absurd rfl (h x), fun _ => rfl⟩
  by_cases hs : ∃ x, i = .ldStVx x
  · obtain ⟨x, rfl⟩ := hs
    exact ⟨_, rfl, fun _ => rfl, fun h => absurd rfl (h x)⟩
  obtain ⟨t, ht, hdelay, hsound⟩ := exec_keepsTimers (not_exists.1 hd) (not_exists.1 hs) s
  exact ⟨t, ht, fun _ => hdelay, fun _ => hsound⟩

/-- Settles O10: a cycle that faults at step 5, or at step 8 for want of a handler, ends with the ticked timers; else the
instruction runs on them. -/
theorem timersTickOncePerCycle : Obligations.TimersTickOncePerCycle := by
  intro s ha
  have hdelay : (tick s.delayTimer).toNat = s.delayTimer.toNat - 1 := tick_toNat _
  have hsound : (tick s.soundTimer).toNat = s.soundTimer.toNat - 1 := tick_toNat _
  rcases Nat.mod_two_eq_zero_or_one s.pc.toNat with he | ho
  · cases hd : decodeWord (wordAtPc s) with
    | error e =>
      exact ⟨_, step_of_undecoded ha he hd, fun _ => hdelay, fun _ => hsound, nofun, nofun, nofun⟩
    | ok i =>
      obtain ⟨t, ht, keepsDelay, keepsSound⟩ := exec_timers i (advancePc (prepared s))
      have hodd : ¬ s.pc.toNat % 2 = 1 := by omega
      refine ⟨t, (step_of_decoded ha he hd).trans ht, fun hi => ?_, fun hi => ?_, fun x _ hi => ?_, fun x _ hi => ?_,
        fun x _ hi => ?_⟩
      · rw [keepsDelay fun x hx => hi.resolve_left hodd x (congrArg _ hx)]; exact hdelay
      · rw [keepsSound fun x hx => hi.resolve_left hodd x (congrArg _ hx)]; exact hsound
      · cases hi; cases ht; rfl
      · cases hi; cases ht; rfl
      · cases hi; cases ht; rw [State.reg_setReg_same]; exact hdelay
  · have heven (he : s.pc.toNat % 2 = 0) : False := by omega
    exact ⟨_, step_of_odd ha ho, fun _ => hdelay, fun _ => hsound, fun _ he => (heven he).elim,
      fun _ he => (heven he).elim, fun _ he => (heven he).elim⟩

end Sys2Proof.Machine
end

section
/-! PROOFS. 40_control_flow.md: the skips on an immediate byte (R103, R104). -/

namespace Sys2Proof.Machine

/-! ## Words of format XNN (R72) -/

/-- A word written as the sum of its fields' weights is the packed word. -/
theorem ofNat_fields_eq_packXNN (g : Nibble) (x : Reg) (nn : Byte) :
    BitVec.ofNat 16 (g.toNat * 0x1000 + x.val * 0x100 + nn.toNat) = packXNN g x nn := by
  rw [← packXNN_toNat, BitVec.ofNat_toNat, BitVec.setWidth_eq]

theorem decodeWord_encode_seImm (x : Reg) (nn : Byte) : decodeWord (encode (.seImm x nn)) = .ok (.seImm x nn) := by
  rw [encode, decodeWord, fieldG_packXNN, fieldX_packXNN, fieldNN_packXNN]; rfl

theorem decodeWord_encode_sneImm (x : Reg) (nn : Byte) : decodeWord (encode (.sneImm x nn)) = .ok (.sneImm x nn) := by
  rw [encode, decodeWord, fieldG_packXNN, fieldX_packXNN, fieldNN_packXNN]; rfl

/-! ## A skip and the cycle after it (R25, R81) -/

/-- A pc past 0xFFF faults at step 1, whatever the stack pointer is, and nothing else changes (R81). -/
theorem step_of_pc_outOfRange {s : State} (hf : s.fault = none) (hp : 0x1000 ≤ s.pc.toNat) :
    step s = .next { s with fault := some .programCounterOutOfRange } := by
  rcases step_cases s with ⟨f, h, -⟩ | ⟨-, -, h⟩ | ⟨-, h, -⟩ | ⟨⟨-, h, -⟩, -⟩ | ⟨⟨-, h, -⟩, -⟩
  · simp [hf] at h
  · exact h
  · omega
  · omega
  · omega

/-- A skip on a test of `p` moves pc by 2 where `p` holds, and keeps the registers; where it leaves pc past 0xFFF, the next
cycle faults. -/
theorem skipIf_spec (s : State) {c : Bool} {p : Prop} [Decidable p] (hc : c = true ↔ p) :
    (s.skipIf c).pc = (if p then s.pc + 2 else s.pc) ∧ (s.skipIf c).v = s.v ∧ (s.skipIf c).fault = s.fault ∧
    (s.fault = none → 0x1000 ≤ (s.skipIf c).pc.toNat →
      step (s.skipIf c) = .next { s.skipIf c with fault := some .programCounterOutOfRange }) :=
  ⟨(s.skipIf_pc c).trans (if_congr hc rfl rfl), s.skipIf_v c, s.skipIf_fault c, fun hf =>
    step_of_pc_outOfRange ((s.skipIf_fault c).trans hf)⟩

/-- Settles O34: both skips are `skipIf` on their own condition, equality or its negation. -/
theorem immediateSkips : Obligations.ImmediateSkips := by
  intro x nn s
  refine ⟨?_, ?_, ⟨_, rfl, skipIf_spec s beq_iff_eq⟩, ⟨_, rfl, skipIf_spec s bne_iff_ne⟩⟩
  · exact (congrArg decodeWord (ofNat_fields_eq_packXNN 0x3 x nn)).trans (decodeWord_encode_seImm x nn)
  · exact (congrArg decodeWord (ofNat_fields_eq_packXNN 0x4 x nn)).trans (decodeWord_encode_sneImm x nn)

end Sys2Proof.Machine
end

section
/-! PROOFS. 41_alu.md: load and add of an immediate byte (R120, R121). -/

namespace Sys2Proof.Machine

/-! ## Words of format XNN (R72) -/

theorem decodeWord_encode_ldImm (x : Reg) (nn : Byte) : decodeWord (encode (.ldImm x nn)) = .ok (.ldImm x nn) := by
  rw [encode, decodeWord, fieldG_packXNN, fieldX_packXNN, fieldNN_packXNN]; rfl

theorem decodeWord_encode_addImm (x : Reg) (nn : Byte) : decodeWord (encode (.addImm x nn)) = .ok (.addImm x nn) := by
  rw [encode, decodeWord, fieldG_packXNN, fieldX_packXNN, fieldNN_packXNN]; rfl

/-! ## A register write as the whole effect (D3) -/

/-- A write to another register keeps the flag register. -/
theorem State.reg_VF_setReg (s : State) {x : Reg} (b : Byte) (h : x ≠ VF) : (s.setReg x b).reg VF = s.reg VF :=
  s.reg_setReg_ne x VF b h.symm

/-- Settles O36: both instructions are one register write, whose 8-bit value wraps the sum. -/
theorem immediateLoadAndAdd : Obligations.ImmediateLoadAndAdd := by
  intro x nn s
  refine ⟨?_, ?_, ⟨_, rfl, s.reg_setReg_same x nn, s.reg_VF_setReg nn, s.setReg_fault x nn⟩,
    ⟨_, rfl, ?_, s.reg_VF_setReg _, s.setReg_fault x _⟩⟩
  · exact (congrArg decodeWord (ofNat_fields_eq_packXNN 0x6 x nn)).trans (decodeWord_encode_ldImm x nn)
  · exact (congrArg decodeWord (ofNat_fields_eq_packXNN 0x7 x nn)).trans (decodeWord_encode_addImm x nn)
  · rw [State.reg_setReg_same, BitVec.toNat_ofNat]

end Sys2Proof.Machine
end

section
/-! PROOFS. 42_index_memory.md: the three writers of I (R140 to R142), and the load of registers from I on (R145). -/

namespace Sys2Proof.Machine

/-! ## Words of format N12 and XSUB (R72) -/

/-- A word written as its row's match plus the weight of its `nnn` is the packed word. -/
theorem ofNat_fields_eq_packN12 (g : Nibble) (nnn : Addr) :
    BitVec.ofNat 16 (g.toNat * 0x1000 + nnn.toNat) = packN12 g nnn := by
  rw [← packN12_toNat, BitVec.ofNat_toNat, BitVec.setWidth_eq]

/-- A word written as its row's match plus the weight of its `x` is the packed word. -/
theorem ofNat_match_add_x_eq_packXNN (g : Nibble) (x : Reg) (nn : Byte) :
    BitVec.ofNat 16 (g.toNat * 0x1000 + nn.toNat + x.val * 0x100) = packXNN g x nn := by
  rw [Nat.add_right_comm, ofNat_fields_eq_packXNN]

theorem decodeWord_encode_ldI (nnn : Addr) : decodeWord (encode (.ldI nnn)) = .ok (.ldI nnn) := by
  rw [encode, decodeWord, fieldG_packN12, fieldNNN_packN12]; rfl

/-- In group F the byte `nn` selects the instruction, on every `x` (R74). -/
theorem decodeWord_packXNN_groupF (x : Reg) (nn : Byte) :
    decodeWord (packXNN 0xF x nn) = decodeGroupF (packXNN 0xF x nn) :=
  decodeWord_of_groupF (by rw [fieldG_packXNN]; rfl)

theorem decodeWord_encode_addI (x : Reg) : decodeWord (encode (.addI x)) = .ok (.addI x) := by
  rw [encode, decodeWord_packXNN_groupF, decodeGroupF, fieldNN_packXNN, fieldX_packXNN]; rfl

theorem decodeWord_encode_ldF (x : Reg) : decodeWord (encode (.ldF x)) = .ok (.ldF x) := by
  rw [encode, decodeWord_packXNN_groupF, decodeGroupF, fieldNN_packXNN, fieldX_packXNN]; rfl

theorem decodeWord_encode_ldRegsFromMem (x : Reg) :
    decodeWord (encode (.ldRegsFromMem x)) = .ok (.ldRegsFromMem x) := by
  rw [encode, decodeWord_packXNN_groupF, decodeGroupF, fieldNN_packXNN, fieldX_packXNN]; rfl

/-! ## The writers of I (R140 to R142) -/

/-- A glyph address fits in I: the last glyph starts at 75. -/
theorem glyphAddr_toNat (s : State) (x : Reg) : (glyphAddr s x).toNat = (s.reg x).toNat % 16 * 5 := by
  rw [glyphAddr, BitVec.toNat_ofNat, Nat.mod_eq_of_lt]; omega

/-- Settles O43: each of the three is one write of I, and only the sum of Fx1E can pass its 16 bits. -/
theorem indexLoads : Obligations.IndexLoads := by
  intro nnn x s
  refine ⟨?_, ?_, ?_, ⟨_, rfl, absolute_toNat nnn, s.setIndex_v _, s.setIndex_fault _⟩,
    ⟨_, rfl, BitVec.toNat_ofNat _ _, s.setIndex_v _, s.setIndex_fault _⟩,
    ⟨_, rfl, glyphAddr_toNat s x, s.setIndex_v _, s.setIndex_fault _⟩⟩
  · exact (congrArg decodeWord (ofNat_fields_eq_packN12 0xA nnn)).trans (decodeWord_encode_ldI nnn)
  · exact (congrArg decodeWord (ofNat_match_add_x_eq_packXNN 0xF x 0x1E)).trans (decodeWord_encode_addI x)
  · exact (congrArg decodeWord (ofNat_match_add_x_eq_packXNN 0xF x 0x29)).trans (decodeWord_encode_ldF x)

/-! ## The load from I on (R145) -/

/-- What Fx65 leaves in each register: the byte at its effective address up to `x`, and the old value above. -/
theorem execLdRegsFromMem_reg {x : Reg} {s t : State} (h : execLdRegsFromMem x s = .next t) (k : Reg) :
    t.reg k = if k ≤ x then s.readByte (effAddr s k.val) else s.reg k := by
  cases h; exact Vector.getElem_ofFn k.isLt

/-- Settles O47: the load replaces the registers alone, each up to `x` by the byte at its masked address. -/
theorem registersAreLoadedFromIndex : Obligations.RegistersAreLoadedFromIndex := by
  intro x s
  refine ⟨?_, _, rfl, fun k hk => ?_, fun k hk => ?_, rfl, fun _ => rfl, rfl⟩
  · exact (congrArg decodeWord (ofNat_match_add_x_eq_packXNN 0xF x 0x65)).trans (decodeWord_encode_ldRegsFromMem x)
  · exact (execLdRegsFromMem_reg rfl k).trans (if_pos hk)
  · exact (execLdRegsFromMem_reg rfl k).trans (if_neg (not_le.2 hk))

end Sys2Proof.Machine
end

section
/-! PROOFS. 44_keys_timers.md: the skips on a key (R160, R161). -/

namespace Sys2Proof.Machine

/-! ## Words of group E (R74) -/

/-- In group E the byte `nn` selects the instruction, on every `x` (R74). -/
theorem decodeWord_packXNN_groupE (x : Reg) (nn : Byte) :
    decodeWord (packXNN 0xE x nn) = decodeGroupE (packXNN 0xE x nn) :=
  decodeWord_of_groupE (by rw [fieldG_packXNN]; rfl)

theorem decodeWord_encode_skp (x : Reg) : decodeWord (encode (.skp x)) = .ok (.skp x) := by
  rw [encode, decodeWord_packXNN_groupE, decodeGroupE, fieldNN_packXNN, fieldX_packXNN]; rfl

theorem decodeWord_encode_sknp (x : Reg) : decodeWord (encode (.sknp x)) = .ok (.sknp x) := by
  rw [encode, decodeWord_packXNN_groupE, decodeGroupE, fieldNN_packXNN, fieldX_packXNN]; rfl

/-! ## A skip on a latch -/

/-- A skip on a test of `p` moves pc by 2 where `p` holds, and changes neither a latch nor a register. -/
theorem skipIf_keepsKeys (s : State) {c : Bool} {p : Prop} [Decidable p] (hc : c = true ↔ p) :
    (s.skipIf c).pc = (if p then s.pc + 2 else s.pc) ∧ (s.skipIf c).keys = s.keys ∧ (s.skipIf c).v = s.v ∧
    (s.skipIf c).fault = s.fault := by
  obtain ⟨hpc, hv, hfault, -⟩ := skipIf_spec s hc
  exact ⟨hpc, s.skipIf_keys c, hv, hfault⟩

/-- Settles O51: both skips are `skipIf` on the latch that the low nibble of V[x] selects, pressed or released. -/
theorem keySkips : Obligations.KeySkips := by
  intro x s
  refine ⟨?_, ?_, ⟨_, rfl, skipIf_keepsKeys s Iff.rfl⟩, ⟨_, rfl, skipIf_keepsKeys s (Bool.not_eq_true' _).to_iff⟩⟩
  · exact (congrArg decodeWord (ofNat_match_add_x_eq_packXNN 0xE x 0x9E)).trans (decodeWord_encode_skp x)
  · exact (congrArg decodeWord (ofNat_match_add_x_eq_packXNN 0xE x 0xA1)).trans (decodeWord_encode_sknp x)

end Sys2Proof.Machine
end

section
/-! PROOFS. 30_encoding.md: decoding and encoding undo each other (R70 to R76), and the unsupported words (R75). -/

namespace Sys2Proof

/-! ## Decoding an encoded instruction (R72, R74) -/

theorem decodeWord_encode (i : Instr) : decodeWord (encode i) = .ok i := by
  cases i with
  | jp | call | ldI | jpV0 => rw [encode, decodeWord, fieldG_packN12, fieldNNN_packN12]; rfl
  | seImm | sneImm | ldImm | addImm | rnd =>
    rw [encode, decodeWord, fieldG_packXNN, fieldX_packXNN, fieldNN_packXNN]; rfl
  | seReg | sneReg | drw =>
    rw [encode, decodeWord, fieldG_packXYN, fieldX_packXYN, fieldY_packXYN, fieldN_packXYN]; rfl
  | cls | ret =>
    rw [encode, decodeWord_of_group0 (by rw [fieldG_packXNN]; rfl), decodeGroup0, fieldNN_packXNN, fieldX_packXNN]; rfl
  | ldReg | orReg | andReg | xorReg | addReg | sub | shr | subn | shl =>
    rw [encode, decodeWord_of_group8 (by rw [fieldG_packXYN]; rfl), decodeGroup8, fieldN_packXYN, fieldX_packXYN,
      fieldY_packXYN]; rfl
  | skp | sknp =>
    rw [encode, Machine.decodeWord_packXNN_groupE, decodeGroupE, fieldNN_packXNN, fieldX_packXNN]; rfl
  | ldVxDt | ldVxK | ldDtVx | ldStVx | addI | ldF | ldB | ldMemFromRegs | ldRegsFromMem =>
    rw [encode, Machine.decodeWord_packXNN_groupF, decodeGroupF, fieldNN_packXNN, fieldX_packXNN]; rfl

/-- The decoder takes the two bytes of an instruction and leaves the rest (R70). -/
theorem decodeBytes_encodeBytes (i : Instr) (rest : List Byte) :
    decodeBytes (encodeBytes i ++ rest) = .ok (i, rest) := by
  simp only [encodeBytes, List.cons_append, List.nil_append, decodeBytes, wordOfBytes_bytes, decodeWord_encode]

/-- Settles O1: each format's fields are read back from the packed word, and its two bytes make the word again. -/
theorem decodeInvertsEncode : Obligations.DecodeInvertsEncode :=
  fun i => ⟨decodeWord_encode i, decodeBytes_encodeBytes i⟩

/-! ## Encoding a decoded word (R71, R76) -/

section
variable {w : Word}

/-! A word whose selecting fields are known is packed from them and from its other fields. -/

theorem packN12_of_group {g : Nibble} (hg : (fieldG w).toNat = g.toNat) : packN12 g (fieldNNN w) = w := by
  rw [← BitVec.eq_of_toNat_eq hg, packN12_fields]

theorem packXNN_of_group {g : Nibble} (hg : (fieldG w).toNat = g.toNat) : packXNN g (fieldX w) (fieldNN w) = w := by
  rw [← BitVec.eq_of_toNat_eq hg, packXNN_fields]

theorem packXYN_of_group {g : Nibble} (hg : (fieldG w).toNat = g.toNat) :
    packXYN g (fieldX w) (fieldY w) (fieldN w) = w := by
  rw [← BitVec.eq_of_toNat_eq hg, packXYN_fields]

theorem packXNN_of_group_nn {g : Nibble} {nn : Byte} (hg : (fieldG w).toNat = g.toNat)
    (hn : (fieldNN w).toNat = nn.toNat) : packXNN g (fieldX w) nn = w := by
  rw [← BitVec.eq_of_toNat_eq hn, packXNN_of_group hg]

theorem packXYN_of_group_n {g n : Nibble} (hg : (fieldG w).toNat = g.toNat) (hn : (fieldN w).toNat = n.toNat) :
    packXYN g (fieldX w) (fieldY w) n = w := by
  rw [← BitVec.eq_of_toNat_eq hn, packXYN_of_group hg]

end

/-- A decoder's answer for a word, if it is an instruction, encodes to the word. -/
def EncodesBack (w : Word) : Except DecodeError Instr → Prop
  | .ok i => encode i = w
  | .error _ => True

section
variable {w : Word}

theorem decodeGroup0_encodesBack (hg : (fieldG w).toNat = 0x0) : EncodesBack w (decodeGroup0 w) := by
  unfold decodeGroup0
  split
  case h_3 => trivial
  all_goals next hnn => exact packXNN_of_group_nn hg hnn

theorem decodeGroup8_encodesBack (hg : (fieldG w).toNat = 0x8) : EncodesBack w (decodeGroup8 w) := by
  unfold decodeGroup8
  split
  case h_10 => trivial
  all_goals next hn => exact packXYN_of_group_n hg hn

theorem decodeGroupE_encodesBack (hg : (fieldG w).toNat = 0xE) : EncodesBack w (decodeGroupE w) := by
  unfold decodeGroupE
  split
  case h_3 => trivial
  all_goals next hnn => exact packXNN_of_group_nn hg hnn

theorem decodeGroupF_encodesBack (hg : (fieldG w).toNat = 0xF) : EncodesBack w (decodeGroupF w) := by
  unfold decodeGroupF
  split
  case h_10 => trivial
  all_goals next hnn => exact packXNN_of_group_nn hg hnn

theorem decodeWord_encodesBack (w : Word) : EncodesBack w (decodeWord w) := by
  unfold decodeWord
  split
  case h_1 hg => exact decodeGroup0_encodesBack hg
  case h_9 hg => exact decodeGroup8_encodesBack hg
  case h_15 hg => exact decodeGroupE_encodesBack hg
  case h_16 =>
    have hlt : (fieldG w).toNat < 16 := (fieldG w).isLt
    have hg : (fieldG w).toNat = 0xF := by simp only [imp_false] at *; omega
    exact decodeGroupF_encodesBack hg
  case h_2 hg | h_3 hg | h_11 hg | h_12 hg => exact packN12_of_group hg
  case h_4 hg | h_5 hg | h_7 hg | h_8 hg | h_13 hg => exact packXNN_of_group hg
  case h_6 hg | h_10 hg | h_14 hg => exact packXYN_of_group hg

end

/-- Settles O2: the operands and the selecting fields are all the fields of the word. -/
theorem encodeInvertsDecode : Obligations.EncodeInvertsDecode := by
  intro w i h
  have hback := decodeWord_encodesBack w
  rwa [h] at hback

/-! ## The unsupported words (R75) -/

section
variable {w : Word}

theorem decodeGroup0_error_iff :
    decodeGroup0 w = .error .unsupportedOpcode ↔ (fieldNN w).toNat ∉ [0xE0, 0xEE] := by
  unfold decodeGroup0
  split <;> simp_all

theorem decodeGroup8_error_iff : decodeGroup8 w = .error .unsupportedOpcode ↔
    (fieldN w).toNat ∈ [0x8, 0x9, 0xA, 0xB, 0xC, 0xD, 0xF] := by
  unfold decodeGroup8
  have hlt : (fieldN w).toNat < 16 := (fieldN w).isLt
  split
  case h_10 => simp only [imp_false] at *; simp; omega
  all_goals simp [*]

theorem decodeGroupE_error_iff :
    decodeGroupE w = .error .unsupportedOpcode ↔ (fieldNN w).toNat ∉ [0x9E, 0xA1] := by
  unfold decodeGroupE
  split <;> simp_all

theorem decodeGroupF_error_iff : decodeGroupF w = .error .unsupportedOpcode ↔
    (fieldNN w).toNat ∉ [0x07, 0x0A, 0x15, 0x18, 0x1E, 0x29, 0x33, 0x55, 0x65] := by
  unfold decodeGroupF
  split <;> simp_all

end

theorem decodeWord_error_iff (w : Word) : decodeWord w = .error .unsupportedOpcode ↔
    ((fieldG w).toNat = 0x0 ∧ (fieldNN w).toNat ∉ [0xE0, 0xEE]) ∨
    ((fieldG w).toNat = 0x8 ∧ (fieldN w).toNat ∈ [0x8, 0x9, 0xA, 0xB, 0xC, 0xD, 0xF]) ∨
    ((fieldG w).toNat = 0xE ∧ (fieldNN w).toNat ∉ [0x9E, 0xA1]) ∨
    ((fieldG w).toNat = 0xF ∧ (fieldNN w).toNat ∉ [0x07, 0x0A, 0x15, 0x18, 0x1E, 0x29, 0x33, 0x55, 0x65]) := by
  rw [← decodeGroup0_error_iff, ← decodeGroup8_error_iff, ← decodeGroupE_error_iff, ← decodeGroupF_error_iff]
  unfold decodeWord
  split
  case h_16 =>
    have hlt : (fieldG w).toNat < 16 := (fieldG w).isLt
    have hg : (fieldG w).toNat = 0xF := by simp only [imp_false] at *; omega
    simp [hg]
  all_goals next hg => simp [hg]

/-- Settles O3: each group's rows are those its own dispatch leaves out, and no other group leaves out any. -/
theorem unsupportedWordsAreExactlyThese : Obligations.UnsupportedWordsAreExactlyThese := by
  intro w
  refine ⟨fun h => ?_, ?_⟩
  · have hmap := decodeWord_followsMap w
    rw [h] at hmap
    cases hmap
  · have hg : w.toNat / 0x1000 = (fieldG w).toNat := by rw [fieldG_toNat]; have := w.isLt; omega
    rw [hg, ← fieldN_toNat, ← fieldNN_toNat]
    exact decodeWord_error_iff w

/-- Settles O6: the decoder run on fourteen words. -/
theorem sampleWordsDecodeAsTheSpecSays : Obligations.SampleWordsDecodeAsTheSpecSays :=
  ⟨rfl, rfl, rfl, rfl, rfl, rfl, rfl, rfl, rfl, rfl, rfl, rfl, rfl, rfl⟩

end Sys2Proof
end

section
/-! PROOFS. 00_scope.md R11: what each instruction may touch, and the fault it raises instead (60_exceptions.md R200),
said once for all instructions. -/

namespace Sys2Proof.Machine

/-! ## What an instruction touches, and what it raises -/

/-- What an instruction that does not fault may change (40 to 44). -/
def touches (i : Instr) (s : State) : Touches :=
  match i with
  | .cls _ => { fb := true }
  | .ret _ | .call _ => { pc := true, stack := true }
  | .jp _ | .jpV0 _ | .seImm _ _ | .sneImm _ _ | .seReg _ _ _ | .sneReg _ _ _ | .skp _ | .sknp _ => { pc := true }
  | .ldImm x _ | .addImm x _ | .ldReg x _ | .orReg x _ | .andReg x _ | .xorReg x _ | .ldVxDt x => { regs := [x] }
  | .addReg x _ | .sub x _ | .shr x _ | .subn x _ | .shl x _ => { regs := [x, VF] }
  | .ldI _ | .addI _ | .ldF _ => { index := true }
  | .rnd x _ => { regs := [x], draws := true }
  | .drw _ _ _ => { regs := [VF], fb := true, redraw := true }
  | .ldVxK x => { regs := [x], pc := true }
  | .ldDtVx _ => { delay := true }
  | .ldStVx _ => { sound := true }
  | .ldB _ => { cells := (List.range 3).map (effAddr s) }
  | .ldMemFromRegs x => { cells := (List.range (x.val + 1)).map (effAddr s) }
  | .ldRegsFromMem x => { regs := (List.finRange 16).filter (fun k => k ≤ x) }

/-- The fault an instruction raises: 2nnn on a full stack, 00EE on an empty one, both with a corrupted pointer (R200),
and Fx33 and Fx55 into the font region where the policy forbids it (R143, R144). -/
def raisedBy (i : Instr) (s : State) : Option Fault :=
  match i with
  | .call _ => if -1 ≤ s.sp ∧ s.sp ≤ 14 then none else some .stackPointerOutOfRange
  | .ret _ => if 0 ≤ s.sp ∧ s.sp ≤ 15 then none else some .stackPointerOutOfRange
  | .ldB _ => if s.config.fontStorePolicy = .fault ∧ touchesFont s 3 = true then some .fontRegionWrite else none
  | .ldMemFromRegs x =>
    if s.config.fontStorePolicy = .fault ∧ touchesFont s (x.val + 1) = true then some .fontRegionWrite else none
  | _ => none

/-! ## The frame of each operation on the state -/

section
variable {u : Touches} {s t : State}

theorem Frame.refl (u : Touches) (s : State) : Frame u s s :=
  ⟨fun _ _ => rfl, fun _ _ => rfl, fun _ => rfl, fun _ => rfl, fun _ => ⟨rfl, rfl⟩, fun _ => rfl, fun _ => rfl,
    fun _ => rfl, fun _ => rfl, fun _ => rfl, rfl, rfl, rfl⟩

/-! The elements of a frame, by name. -/

theorem Frame.reg_eq {r : Reg} (h : Frame u s t) (hr : r ∉ u.regs) : t.reg r = s.reg r := by
  obtain ⟨hregs, -⟩ := h; exact hregs r hr

theorem Frame.i_eq (h : Frame u s t) (hu : u.index = false) : t.i = s.i := by
  obtain ⟨-, -, hindex, -⟩ := h; exact hindex hu

theorem Frame.stack_eq (h : Frame u s t) (hu : u.stack = false) : t.stack = s.stack ∧ t.sp = s.sp := by
  obtain ⟨-, -, -, -, hstack, -⟩ := h; exact hstack hu

theorem Frame.redraw_eq (h : Frame u s t) (hu : u.redraw = false) : t.redraw = s.redraw := by
  obtain ⟨-, -, -, -, -, -, -, -, hredraw, -⟩ := h; exact hredraw hu

theorem Frame.draws_eq (h : Frame u s t) (hu : u.draws = false) : t.draws = s.draws := by
  obtain ⟨-, -, -, -, -, -, -, -, -, hdraws, -⟩ := h; exact hdraws hu

theorem Frame.keys_eq (h : Frame u s t) : t.keys = s.keys := by
  obtain ⟨-, -, -, -, -, -, -, -, -, -, hkeys, -⟩ := h; exact hkeys

theorem Frame.fault_eq (h : Frame u s t) : t.fault = s.fault := by
  obtain ⟨-, -, -, -, -, -, -, -, -, -, -, hfault, -⟩ := h; exact hfault

theorem Frame.config_eq (h : Frame u s t) : t.config = s.config := by
  obtain ⟨-, -, -, -, -, -, -, -, -, -, -, -, hconfig⟩ := h; exact hconfig

/-! A write to an element that the frame names keeps the frame. -/

theorem Frame.setReg {x : Reg} (h : Frame u s t) (hx : x ∈ u.regs) (b : Byte) : Frame u s (t.setReg x b) := by
  obtain ⟨hregs, hrest⟩ := h
  refine ⟨fun r hr => ?_, hrest⟩
  rw [State.reg_setReg_ne _ _ _ _ (ne_of_mem_of_not_mem hx hr).symm, hregs r hr]

theorem Frame.setPc (h : Frame u s t) (hu : u.pc = true) (a : Word) : Frame u s (t.setPc a) := by
  obtain ⟨hregs, hcells, hindex, -, hrest⟩ := h
  exact ⟨hregs, hcells, hindex, (fun hf => nomatch hu.symm.trans hf), hrest⟩

theorem Frame.setIndex (h : Frame u s t) (hu : u.index = true) (a : Word) : Frame u s (t.setIndex a) := by
  obtain ⟨hregs, hcells, -, hrest⟩ := h
  exact ⟨hregs, hcells, (fun hf => nomatch hu.symm.trans hf), hrest⟩

theorem Frame.skipIf (h : Frame u s t) (hu : u.pc = true) (c : Bool) : Frame u s (t.skipIf c) := by
  cases c with
  | false => exact h
  | true => exact h.setPc hu _

/-- A block store changes the cells it stores to alone (R54). -/
theorem frame_writeBytes (s : State) (xs : List Byte) :
    Frame { cells := (List.range xs.length).map (effAddr s) } s (s.writeBytes s.i.toNat xs) := by
  obtain ⟨hregs, -, hrest⟩ := Frame.refl { cells := (List.range xs.length).map (effAddr s) } s
  refine ⟨hregs, fun a ha => State.readByte_writeBytes_outside _ _ _ fun k hk hc => ha ?_, hrest⟩
  exact List.mem_map.2 ⟨k, List.mem_range.2 hk, hc⟩

end

/-! ## The instructions that may fault -/

theorem execCall_of_full (nnn : Addr) {s : State} (h : ¬ (-1 ≤ s.sp ∧ s.sp ≤ 14)) :
    execCall nnn s = .next { s with fault := some .stackPointerOutOfRange } := by
  rw [execCall, (push_none_iff s s.pc).2 h]; rfl

theorem execRet_of_empty (x : Reg) {s : State} (h : ¬ (0 ≤ s.sp ∧ s.sp ≤ 15)) :
    execRet x s = .next { s with fault := some .stackPointerOutOfRange } := by
  rw [execRet, (pop_none_iff s).2 h]; rfl

/-- A call on a stack with room pushes pc and jumps (R102). -/
theorem execCall_of_room (nnn : Addr) {s : State} (h : -1 ≤ s.sp ∧ s.sp ≤ 14) :
    execCall nnn s = .next { s with
      stack := s.stack.set (s.sp + 1).toNat s.pc (by omega), sp := s.sp + 1, pc := absolute nnn } := by
  have hroom : 0 ≤ s.sp + 1 ∧ s.sp + 1 < 16 := by omega
  rw [execCall, push, dif_pos hroom]; rfl

/-- A return on a stack that is not empty pops the top entry into pc (R100). -/
theorem execRet_of_entry (x : Reg) {s : State} (h : 0 ≤ s.sp ∧ s.sp ≤ 15) :
    execRet x s = .next { s with sp := s.sp - 1, pc := s.stack[s.sp.toNat]'(by omega) } := by
  have hentry : 0 ≤ s.sp ∧ s.sp < 16 := by omega
  rw [execRet, pop, dif_pos hentry]; rfl

theorem storeBlock_of_font {s : State} {xs : List Byte} {n : Nat} (hn : xs.length = n)
    (h : s.config.fontStorePolicy = .fault ∧ touchesFont s n = true) :
    storeBlock s xs = .next { s with fault := some .fontRegionWrite } := by
  subst hn; exact if_pos h

theorem storeBlock_of_allowed {s : State} {xs : List Byte} {n : Nat} (hn : xs.length = n)
    (h : ¬ (s.config.fontStorePolicy = .fault ∧ touchesFont s n = true)) :
    storeBlock s xs = .next (s.writeBytes s.i.toNat xs) := by
  subst hn; exact if_neg h

/-- The key wait takes the lowest pressed key, or the step-6 advance back (R163). -/
theorem execLdVxK_of_pressed (x : Reg) {s : State} {k : Key} (h : lowestPressed s = some k) :
    execLdVxK x s = .next (s.setReg x (BitVec.ofNat 8 k.val)) := by rw [execLdVxK, h]

theorem execLdVxK_of_none (x : Reg) {s : State} (h : lowestPressed s = none) :
    execLdVxK x s = .next (s.setPc (s.pc - 2)) := by rw [execLdVxK, h]

theorem raisedBy_call_none {nnn : Addr} {s : State} (h : raisedBy (.call nnn) s = none) : -1 ≤ s.sp ∧ s.sp ≤ 14 := by
  by_contra hsp
  cases h.symm.trans (if_neg hsp)

theorem raisedBy_ret_none {x : Reg} {s : State} (h : raisedBy (.ret x) s = none) : 0 ≤ s.sp ∧ s.sp ≤ 15 := by
  by_contra hsp
  cases h.symm.trans (if_neg hsp)

/-! ## Every instruction -/

/-- An instruction that faults changes nothing but the fault element (R202). -/
theorem exec_of_raised {i : Instr} {s : State} {f : Fault} (h : raisedBy i s = some f) :
    exec i s = .next { s with fault := some f } := by
  cases i with
  | call nnn =>
    rcases Option.ite_none_left_eq_some.1 h with ⟨hsp, ⟨⟩⟩; exact execCall_of_full nnn hsp
  | ret x => rcases Option.ite_none_left_eq_some.1 h with ⟨hsp, ⟨⟩⟩; exact execRet_of_empty x hsp
  | ldB x =>
    rcases Option.ite_none_right_eq_some.1 h with ⟨hfont, ⟨⟩⟩; exact storeBlock_of_font (bcdDigits_length _) hfont
  | ldMemFromRegs x =>
    rcases Option.ite_none_right_eq_some.1 h with ⟨hfont, ⟨⟩⟩; exact storeBlock_of_font (regBlock_length s x) hfont
  | _ => cases h

/-- An instruction that does not fault answers a next state, in which nothing has changed but what it touches (R11). -/
theorem exec_of_not_raised {i : Instr} {s : State} (h : raisedBy i s = none) :
    ∃ t, exec i s = .next t ∧ Frame (touches i s) s t := by
  have hrefl := Frame.refl (touches i s) s
  have ⟨hregs, hcells, hindex, hpc, hstack, hdelay, hsound, hfb, hredraw, hdraws, hrest⟩ := hrefl
  cases i with
  | call nnn =>
    exact ⟨_, execCall_of_room nnn (raisedBy_call_none h), hregs, hcells, hindex, nofun, nofun, hdelay, hsound, hfb,
      hredraw, hdraws, hrest⟩
  | ret x =>
    exact ⟨_, execRet_of_entry x (raisedBy_ret_none h), hregs, hcells, hindex, nofun, nofun, hdelay, hsound, hfb,
      hredraw, hdraws, hrest⟩
  | ldB x =>
    have hfont : ¬ (s.config.fontStorePolicy = .fault ∧ touchesFont s 3 = true) := fun hfont =>
      nomatch h.symm.trans (if_pos hfont)
    exact ⟨_, storeBlock_of_allowed (bcdDigits_length _) hfont, frame_writeBytes s _⟩
  | ldMemFromRegs x =>
    have hfont : ¬ (s.config.fontStorePolicy = .fault ∧ touchesFont s (x.val + 1) = true) := fun hfont =>
      nomatch h.symm.trans (if_pos hfont)
    refine ⟨_, storeBlock_of_allowed (regBlock_length s x) hfont, ?_⟩
    have hframe := frame_writeBytes s (regBlock s x)
    rwa [regBlock_length] at hframe
  | jp | jpV0 => exact ⟨_, rfl, hrefl.setPc rfl _⟩
  | seImm | sneImm | seReg | sneReg | skp | sknp => exact ⟨_, rfl, hrefl.skipIf rfl _⟩
  | ldI | addI | ldF => exact ⟨_, rfl, hrefl.setIndex rfl _⟩
  | ldImm | addImm | ldReg | orReg | andReg | xorReg | ldVxDt =>
    exact ⟨_, rfl, hrefl.setReg List.mem_cons_self _⟩
  | addReg | sub | shr | subn | shl =>
    exact ⟨_, rfl, (hrefl.setReg (List.mem_cons_of_mem _ List.mem_cons_self) _).setReg List.mem_cons_self _⟩
  | ldVxK x =>
    cases hk : lowestPressed s with
    | none => exact ⟨_, execLdVxK_of_none x hk, hrefl.setPc rfl _⟩
    | some k => exact ⟨_, execLdVxK_of_pressed x hk, hrefl.setReg List.mem_cons_self _⟩
  | rnd x nn =>
    refine ⟨_, rfl, Frame.setReg (t := { s with draws := s.draws + 1 }) ?_ List.mem_cons_self _⟩
    exact ⟨hregs, hcells, hindex, hpc, hstack, hdelay, hsound, hfb, hredraw, nofun, hrest⟩
  | cls =>
    exact ⟨_, rfl, hregs, hcells, hindex, hpc, hstack, hdelay, hsound, nofun, hredraw, hdraws, hrest⟩
  | drw x y n =>
    obtain ⟨hregs, -⟩ := hrefl.setReg (x := VF) List.mem_cons_self _
    exact ⟨_, rfl, hregs, hcells, hindex, hpc, hstack, hdelay, hsound, nofun, nofun, hdraws, hrest⟩
  | ldDtVx => exact ⟨_, rfl, hregs, hcells, hindex, hpc, hstack, nofun, hsound, hfb, hredraw, hdraws, hrest⟩
  | ldStVx => exact ⟨_, rfl, hregs, hcells, hindex, hpc, hstack, hdelay, nofun, hfb, hredraw, hdraws, hrest⟩
  | ldRegsFromMem x =>
    refine ⟨_, rfl, fun r hr => (execLdRegsFromMem_reg rfl r).trans (if_neg ?_), hcells, hindex, hpc, hstack, hdelay,
      hsound, hfb, hredraw, hdraws, hrest⟩
    exact fun hle => hr (List.mem_filter.2 ⟨List.mem_finRange r, decide_eq_true hle⟩)

/-- All an instruction can do: raise its fault and nothing else, or keep its frame. -/
theorem exec_cases {i : Instr} {s t : State} (h : exec i s = .next t) :
    (∃ f, raisedBy i s = some f ∧ t = { s with fault := some f }) ∨
    (raisedBy i s = none ∧ Frame (touches i s) s t) := by
  cases hr : raisedBy i s with
  | some f => cases h.symm.trans (exec_of_raised hr); exact .inl ⟨f, rfl, rfl⟩
  | none =>
    obtain ⟨u, hu, hframe⟩ := exec_of_not_raised hr
    cases h.symm.trans hu
    exact .inr ⟨rfl, hframe⟩

theorem exec_frame {i : Instr} {s t : State} (hr : raisedBy i s = none) (h : exec i s = .next t) :
    Frame (touches i s) s t := by
  rcases exec_cases h with ⟨f, hf, -⟩ | ⟨-, hframe⟩
  · cases hr.symm.trans hf
  · exact hframe

end Sys2Proof.Machine
end

section
/-! PROOFS. The frame rule (00_scope.md R11) for each group of instructions, and which instruction raises which fault
(60_exceptions.md R200), read off `exec_cases`. -/

namespace Sys2Proof.Machine

/-! ## Frames -/

/-- Instructions that raise nothing and touch the same elements keep the same frame. -/
theorem frame_of_mem {l : List Instr} {u : Touches} {s t : State}
    (hl : ∀ i ∈ l, raisedBy i s = none ∧ touches i s = u) : ∀ i ∈ l, exec i s = .next t → Frame u s t := by
  intro i hi h
  obtain ⟨hr, rfl⟩ := hl i hi
  exact exec_frame hr h

/-- Settles O54: every operation of either list touches the registers its clause names. -/
theorem frameOfRegisterOperations : Obligations.FrameOfRegisterOperations := by
  intro x y nn s t
  exact ⟨frame_of_mem (by simp [raisedBy, touches]), frame_of_mem (by simp [raisedBy, touches])⟩

/-- Settles O55: jumps and skips raise nothing; within the bounds of sp neither do 2nnn and 00EE. -/
theorem frameOfControlTransfers : Obligations.FrameOfControlTransfers := by
  intro x y n nn nnn s t
  refine ⟨frame_of_mem (by simp [raisedBy, touches]), fun hl hu h => ?_, fun hl hu h => ?_⟩
  · exact exec_frame (i := .call nnn) (if_pos ⟨hl, hu⟩) h
  · exact exec_frame (i := .ret x) (if_pos ⟨hl, hu⟩) h

/-- Settles O56: none of these instructions raises a fault, so each keeps the frame of what it touches. -/
theorem frameOfIndexTimerKeyAndRandom : Obligations.FrameOfIndexTimerKeyAndRandom := by
  intro x nn nnn s t
  exact ⟨frame_of_mem (by simp [raisedBy, touches]), exec_frame rfl, exec_frame rfl, exec_frame rfl, exec_frame rfl⟩

/-- Where the policy lets `n` bytes from I be stored (R54), the font check of Fx33 and Fx55 passes. -/
theorem fontCheck_passes {s : State} {n : Nat}
    (h : s.config.fontStorePolicy = .writeThrough ∨ ∀ k, k < n → 0x04F < effAddr s k) :
    ¬ (s.config.fontStorePolicy = .fault ∧ touchesFont s n = true) := by
  rintro ⟨hpolicy, hfont⟩
  obtain ⟨k, hk, hlt⟩ := (touchesFont_iff s n).1 hfont
  rcases h with h | h
  · cases h.symm.trans hpolicy
  · have := h k hk; omega

/-- Settles O57: where the font check passes, Fx33 and Fx55 raise nothing; Fx65 never does. -/
theorem frameOfMemoryTransfers : Obligations.FrameOfMemoryTransfers := by
  intro x s t
  refine ⟨fun hpolicy => exec_frame (if_neg (fontCheck_passes hpolicy)), fun hpolicy => ?_, exec_frame rfl⟩
  refine exec_frame (if_neg (fontCheck_passes (hpolicy.imp_right fun hk k hlt => hk k ?_)))
  omega

/-- Settles O58: neither instruction raises a fault. -/
theorem frameOfDisplay : Obligations.FrameOfDisplay :=
  fun _ _ _ _ _ => ⟨exec_frame rfl, exec_frame rfl⟩

/-- The registers an instruction touches are its destinations, and VF where it writes the flag (R22). -/
theorem touches_regs {i : Instr} {r : Reg} (hd : r ∉ destinations i) (hf : r = VF → ¬ writesFlag i) (s : State) :
    r ∉ (touches i s).regs := by
  cases i with
  | addReg x y | sub x y | shr x y | subn x y | shl x y =>
    have hvf : r ≠ VF := fun h => hf h (.inl ⟨x, y, by simp⟩)
    simpa [touches, destinations, hvf] using hd
  | drw x y n =>
    have hvf : r ≠ VF := fun h => hf h (.inr ⟨x, y, n, rfl⟩)
    simpa [touches] using hvf
  | _ => exact hd

/-- Settles O17: a fault leaves every register, and otherwise the frame does, but for those the instruction touches. -/
theorem registersChangeOnlyAsDestinationOrFlag : Obligations.RegistersChangeOnlyAsDestinationOrFlag := by
  intro i s t r h hd hf
  rcases exec_cases h with ⟨f, -, rfl⟩ | ⟨-, hframe⟩
  · rfl
  · exact hframe.reg_eq (touches_regs hd hf s)

/-! ## Faults of instructions (R200) -/

/-- A font check that fails has a target in 0x000–0x04F. -/
theorem touchesFont_target {s : State} {n : Nat} :
    touchesFont s n = true ↔ ∃ k, k < n ∧ (s.i.toNat + k) % 0x1000 ≤ 0x04F := by
  simp only [touchesFont_iff, effAddr, cell, Nat.lt_succ_iff]

/-- The faults of instructions, each where its rule says so. -/
theorem raisedBy_some {i : Instr} {s : State} {f : Fault} (h : raisedBy i s = some f) :
    (f = .stackPointerOutOfRange ∧
      ((∃ nnn, i = .call nnn) ∧ ¬ (-1 ≤ s.sp ∧ s.sp ≤ 14) ∨ (∃ x, i = .ret x) ∧ ¬ (0 ≤ s.sp ∧ s.sp ≤ 15))) ∨
    (f = .fontRegionWrite ∧ s.config.fontStorePolicy = .fault ∧
      ∃ x, (i = .ldB x ∧ ∃ k, k < 3 ∧ (s.i.toNat + k) % 0x1000 ≤ 0x04F) ∨
        (i = .ldMemFromRegs x ∧ ∃ k, k ≤ x.val ∧ (s.i.toNat + k) % 0x1000 ≤ 0x04F)) := by
  cases i with
  | call nnn => rcases Option.ite_none_left_eq_some.1 h with ⟨hsp, ⟨⟩⟩; exact .inl ⟨rfl, .inl ⟨⟨nnn, rfl⟩, hsp⟩⟩
  | ret x => rcases Option.ite_none_left_eq_some.1 h with ⟨hsp, ⟨⟩⟩; exact .inl ⟨rfl, .inr ⟨⟨x, rfl⟩, hsp⟩⟩
  | ldB x =>
    rcases Option.ite_none_right_eq_some.1 h with ⟨⟨hpolicy, hfont⟩, ⟨⟩⟩
    exact .inr ⟨rfl, hpolicy, x, .inl ⟨rfl, touchesFont_target.1 hfont⟩⟩
  | ldMemFromRegs x =>
    rcases Option.ite_none_right_eq_some.1 h with ⟨⟨hpolicy, hfont⟩, ⟨⟩⟩
    obtain ⟨k, hk, hlow⟩ := touchesFont_target.1 hfont
    exact .inr ⟨rfl, hpolicy, x, .inr ⟨rfl, k, Nat.lt_succ_iff.1 hk, hlow⟩⟩
  | _ => cases h

/-- Settles O46: a target in the font region fails the check, and a failed check stores nothing. -/
theorem fontPolicyFaultsBeforeAnyStore : Obligations.FontPolicyFaultsBeforeAnyStore := by
  refine fun x s hpolicy => ⟨fun htarget => ?_, fun ⟨k, hk, hlow⟩ => ?_⟩
  · exact exec_of_raised (if_pos ⟨hpolicy, touchesFont_target.2 htarget⟩)
  · exact exec_of_raised (if_pos ⟨hpolicy, touchesFont_target.2 ⟨k, Nat.lt_succ_iff.2 hk, hlow⟩⟩)

/-- Settles O19: `exec_cases` with the conditions of `raisedBy` written out, and each condition raising its fault. -/
theorem instructionFaultsAreExactlyThese : Obligations.InstructionFaultsAreExactlyThese := by
  refine ⟨fun i s t h => ?_, fun x nnn s => ⟨fun hsp => ?_, fun hsp => ?_, fun hpolicy => ?_, fun hpolicy => ?_⟩⟩
  · rcases exec_cases h with ⟨f, hf, rfl⟩ | ⟨-, hframe⟩
    · rcases raisedBy_some hf with ⟨rfl, hwhere⟩ | ⟨rfl, hwhere⟩
      · exact .inr (.inl ⟨rfl, hwhere⟩)
      · exact .inr (.inr ⟨rfl, hwhere⟩)
    · exact .inl hframe.fault_eq
  · exact exec_of_raised (if_neg hsp)
  · exact exec_of_raised (if_neg hsp)
  · exact (fontPolicyFaultsBeforeAnyStore x s hpolicy).1
  · exact (fontPolicyFaultsBeforeAnyStore x s hpolicy).2

end Sys2Proof.Machine
end

section
/-! PROOFS. 30_encoding.md: what one step can do (R80 to R88, R203), and what no step changes. -/

namespace Sys2Proof.Machine

/-! ## When a step answers (R203) -/

theorem exec_next (i : Instr) (s : State) : ∃ t, exec i s = .next t := by
  obtain ⟨t, ht, -⟩ := exec_timers i s
  exact ⟨t, ht⟩

theorem step_of_some_fault {s : State} {f : Fault} (h : s.fault = some f) : step s = .fault f := by
  rw [step, stepOnce, h]

theorem step_of_no_fault {s : State} (h : s.fault = none) : ∃ t, step s = .next t := by
  rcases step_cases s with ⟨f, hf, -⟩ | ⟨-, -, hs⟩ | ⟨-, -, -, hs⟩ | ⟨-, -, hs⟩ | ⟨ha, he, -⟩
  · cases h.symm.trans hf
  · exact ⟨_, hs⟩
  · exact ⟨_, hs⟩
  · exact ⟨_, hs⟩
  · cases hd : decodeWord (wordAtPc s) with
    | error e => exact ⟨_, step_of_undecoded ha he hd⟩
    | ok i => rw [step_of_decoded ha he hd]; exact exec_next i _

/-- Settles O11: a recorded fault decides whether the step answers it or a next state. -/
theorem stepStopsExactlyAfterAFault : Obligations.StepStopsExactlyAfterAFault := by
  intro s
  cases hf : s.fault with
  | some f =>
    rw [step_of_some_fault hf]
    exact ⟨fun g => by simp, by simp, nofun⟩
  | none =>
    obtain ⟨t, ht⟩ := step_of_no_fault hf
    rw [ht]
    exact ⟨fun g => by simp, by simp, nofun⟩

/-! ## The faults before step 8 (R81, R84) -/

/-- A stack pointer outside −1..15 faults at step 2, after the check of pc (R81). -/
theorem step_of_sp_outOfRange {s : State} (hf : s.fault = none) (hp : s.pc.toNat < 0x1000)
    (hsp : s.sp < -1 ∨ 15 < s.sp) : step s = .next { s with fault := some .stackPointerOutOfRange } := by
  rcases step_cases s with ⟨f, h, -⟩ | ⟨-, h, -⟩ | ⟨-, -, -, h⟩ | ⟨⟨-, -, hl, hu⟩, -⟩ | ⟨⟨-, -, hl, hu⟩, -⟩
  · cases hf.symm.trans h
  · omega
  · exact h
  · omega
  · omega

/-- Settles O9: one lemma per check, in the order of the steps. -/
theorem earlyFaultsKeepTheEarlierEffects : Obligations.EarlyFaultsKeepTheEarlierEffects :=
  fun _ hf => ⟨step_of_pc_outOfRange hf, step_of_sp_outOfRange hf, fun hp hl hu ho => step_of_odd ⟨hf, hp, hl, hu⟩ ho⟩

/-! ## What a step can leave -/

/-- A step that answers a next state has faulted before the timers (R81), after them at an odd pc (R84), or after the
advance, for want of a handler or in step 8 (R87, R88), and changed nothing else in that step; or it has run an
instruction in its frame. -/
theorem step_next_cases {s t : State} (h : step s = .next t) :
    (∃ f, t = { s with fault := some f }) ∨
    (∃ f, t = { prepared s with fault := some f }) ∨
    (Admitted s ∧ s.pc.toNat % 2 = 0 ∧ ∃ f, t = { advancePc (prepared s) with fault := some f }) ∨
    (Admitted s ∧ s.pc.toNat % 2 = 0 ∧ ∃ i, decodeWord (wordAtPc s) = .ok i ∧
      exec i (advancePc (prepared s)) = .next t ∧ Frame (touches i (advancePc (prepared s))) (advancePc (prepared s)) t) := by
  rcases step_cases s with ⟨f, -, hs⟩ | ⟨-, -, hs⟩ | ⟨-, -, -, hs⟩ | ⟨-, -, hs⟩ | ⟨ha, he, -⟩
  · cases h.symm.trans hs
  · cases h.symm.trans hs; exact .inl ⟨_, rfl⟩
  · cases h.symm.trans hs; exact .inl ⟨_, rfl⟩
  · cases h.symm.trans hs; exact .inr (.inl ⟨_, rfl⟩)
  · cases hd : decodeWord (wordAtPc s) with
    | error e => cases h.symm.trans (step_of_undecoded ha he hd); exact .inr (.inr (.inl ⟨ha, he, _, rfl⟩))
    | ok i =>
      have hexec : exec i (advancePc (prepared s)) = .next t := (step_of_decoded ha he hd).symm.trans h
      rcases exec_cases hexec with ⟨f, -, ht⟩ | ⟨-, hframe⟩
      · exact .inr (.inr (.inl ⟨ha, he, f, ht⟩))
      · exact .inr (.inr (.inr ⟨ha, he, i, rfl, hexec, hframe⟩))

/-- Only 2nnn and 00EE touch the stack (R27). -/
theorem touches_stack {i : Instr} (hc : ∀ nnn, i ≠ .call nnn) (hr : ∀ x, i ≠ .ret x) (s : State) :
    (touches i s).stack = false := by
  cases i with
  | call nnn => exact absurd rfl (hc nnn)
  | ret x => exact absurd rfl (hr x)
  | _ => rfl

/-- Only Cxnn takes a draw (R131). -/
theorem touches_draws {i : Instr} (h : ∀ x nn, i ≠ .rnd x nn) (s : State) : (touches i s).draws = false := by
  cases i with
  | rnd x nn => exact absurd rfl (h x nn)
  | _ => rfl

/-- Only Dxyn touches the redraw latch (R154). -/
theorem touches_redraw {i : Instr} (h : ∀ x y n, i ≠ .drw x y n) (s : State) : (touches i s).redraw = false := by
  cases i with
  | drw x y n => exact absurd rfl (h x y n)
  | _ => rfl

/-- Settles O13: a fault changes no stack, and neither does an instruction whose frame does not name it. -/
theorem onlyCallAndReturnTouchTheStack : Obligations.OnlyCallAndReturnTouchTheStack := by
  intro s t h hcall hret
  rcases step_next_cases h with ⟨f, rfl⟩ | ⟨f, rfl⟩ | ⟨-, -, f, rfl⟩ | ⟨-, -, i, hd, -, hframe⟩
  · exact ⟨rfl, rfl⟩
  · exact ⟨rfl, rfl⟩
  · exact ⟨rfl, rfl⟩
  · exact hframe.stack_eq (touches_stack (fun nnn hi => hcall nnn (hi ▸ hd)) (fun x hi => hret x (hi ▸ hd)) _)

/-- Settles O18: no frame names the key latches or the parameters, and only that of Cxnn names the draws. -/
theorem stepNeverWritesKeysOrParameters : Obligations.StepNeverWritesKeysOrParameters := by
  intro s t h
  rcases step_next_cases h with ⟨f, rfl⟩ | ⟨f, rfl⟩ | ⟨-, -, f, rfl⟩ | ⟨-, -, i, hd, -, hframe⟩
  · exact ⟨rfl, rfl, fun _ => rfl⟩
  · exact ⟨rfl, rfl, fun _ => rfl⟩
  · exact ⟨rfl, rfl, fun _ => rfl⟩
  · exact ⟨hframe.keys_eq, hframe.config_eq, fun hrnd =>
      hframe.draws_eq (touches_draws (fun x nn hi => hrnd x nn (hi ▸ hd)) _)⟩

/-! ## The redraw latch (R154) -/

/-- An instruction run on a cleared latch sets it exactly if it is Dxyn. -/
theorem exec_redraw {i : Instr} {s t : State} (hs : s.redraw = false) (h : exec i s = .next t) :
    t.redraw = true ↔ ∃ x y n, i = .drw x y n := by
  constructor
  · intro ht
    by_contra hdrw
    have hno : ∀ x y n, i ≠ .drw x y n := fun x y n hi => hdrw ⟨x, y, n, hi⟩
    rcases exec_cases h with ⟨f, -, rfl⟩ | ⟨-, hframe⟩
    · cases hs.symm.trans ht
    · rw [hframe.redraw_eq (touches_redraw hno s), hs] at ht; cases ht
  · rintro ⟨x, y, n, rfl⟩; cases h; rfl

/-- Settles O12: step 3 clears the latch, and after it only Dxyn sets it. -/
theorem redrawLatchReportsExactlyDraws : Obligations.RedrawLatchReportsExactlyDraws := by
  intro s ha
  rcases Nat.mod_two_eq_zero_or_one s.pc.toNat with he | ho
  · cases hd : decodeWord (wordAtPc s) with
    | error e => exact ⟨_, step_of_undecoded ha he hd, by simp⟩
    | ok i =>
      obtain ⟨t, ht⟩ := exec_next i (advancePc (prepared s))
      refine ⟨t, (step_of_decoded ha he hd).trans ht, ?_⟩
      rw [exec_redraw rfl ht]
      simp [he]
  · exact ⟨_, step_of_odd ha ho, by simp; omega⟩

/-! ## Placing a word (log 17) -/

theorem bytesOfTableWord_toNat (w : Word) : bytesOfTableWord 16 w.toNat = [highByte w, lowByte w] := by
  have hw : w.toNat % 2 ^ 16 = w.toNat := Nat.mod_eq_of_lt w.isLt
  simp only [bytesOfTableWord, hw, BitVec.ofNat_toNat, BitVec.setWidth_eq]

theorem decodeTableWord_encode (i : Instr) : decodeTableWord 16 (encode i).toNat = some i := by
  have hd : decodeBytes (encodeBytes i) = .ok (i, []) := decodeBytes_encodeBytes i []
  rw [decodeTableWord, bytesOfTableWord_toNat]
  rw [encodeBytes] at hd
  rw [hd]

/-- Settles O8: the two placed bytes are read back at pc as the word, and the store changes memory alone. -/
theorem placedInstructionIsFetched : Obligations.PlacedInstructionIsFetched := by
  intro s i ha he hwf
  have hcell : cell s.pc.toNat = s.pc.toNat := let ⟨_, hp, _⟩ := ha; cell_of_lt hp
  have hplaced : s.withFetchWord 16 (encode i).toNat =
      s.writeBytes (cell s.pc.toNat) [highByte (encode i), lowByte (encode i)] := by
    rw [State.withFetchWord, placeWord, bytesOfTableWord_toNat, hcell]
  obtain ⟨hhi, hlo, helse⟩ := readByte_writeBytes_pair hwf (hcell.symm ▸ he) (highByte (encode i)) (lowByte (encode i))
  rw [hplaced]
  refine ⟨ha, rfl, ?_, decodeTableWord_encode i, ?_⟩
  · have hword : wordAtPc (s.writeBytes (cell s.pc.toNat) [highByte (encode i), lowByte (encode i)]) = encode i := by
      rw [wordAtPc, State.writeBytes_pc, hhi, hlo]; exact wordOfBytes_bytes (encode i)
    rw [hword, decodeWord_encode]
  · rw [hcell] at helse ⊢
    exact helse

end Sys2Proof.Machine
end

section
/-! PROOFS. 10_state.md R37: the invariant holds at reset, every step keeps it, and so do the host's transactions and
every run. -/

namespace Sys2Proof.Machine

/-! ## Reset (R40) -/

/-- The invariant reads memory, the parameters, the stack, its pointer and pc alone. -/
theorem Inv.of_eq {s t : State} (h : Inv s) (hmem : t.mem = s.mem) (hconfig : t.config = s.config)
    (hstack : t.stack = s.stack) (hsp : t.sp = s.sp) (hpc : t.pc.toNat ≤ 0x10FE) : Inv t := by
  obtain ⟨hwf, hrange, hentries, -⟩ := h
  rw [Inv, hmem, hconfig, hstack, hsp]
  exact ⟨hwf, hrange, hentries, hpc⟩

theorem inv_resetWith (c : Config) (n : Nat) : Inv (State.resetWith c n) := by
  refine ⟨⟨List.Pairwise.nil, fun _ h => nomatch h⟩, by simp [State.resetWith, resetSp], fun k => ?_, by
    simp [State.resetWith, resetPc]⟩
  have hzero : (State.resetWith c n).stack[k] = 0 := by simp [State.resetWith]
  rw [hzero]; decide

/-- Settles O20: the empty memory is canonical and the empty stack in range, whatever the parameters are. -/
theorem resetSatisfiesTheInvariant : Obligations.ResetSatisfiesTheInvariant := inv_resetWith

/-! ## The parts of the invariant through an instruction -/

/-- An instruction leaves memory as it is, but for a block stored from I on (R54). -/
theorem exec_memory {i : Instr} {s t : State} (h : exec i s = .next t) :
    t.mem = s.mem ∨ ∃ xs, t.mem = Memory.writeBlock s.config s.mem s.i.toNat xs := by
  cases hr : raisedBy i s with
  | some f => cases h.symm.trans (exec_of_raised hr); exact .inl rfl
  | none =>
    cases i with
    | call nnn => cases h.symm.trans (execCall_of_room nnn (raisedBy_call_none hr)); exact .inl rfl
    | ret x => cases h.symm.trans (execRet_of_entry x (raisedBy_ret_none hr)); exact .inl rfl
    | ldVxK x =>
      cases hk : lowestPressed s with
      | none => cases h.symm.trans (execLdVxK_of_none x hk); exact .inl rfl
      | some k => cases h.symm.trans (execLdVxK_of_pressed x hk); exact .inl rfl
    | ldB | ldMemFromRegs =>
      rcases storeBlock_cases s _ with ⟨-, hs⟩ | ⟨-, hs⟩
      · cases h.symm.trans hs; exact .inl rfl
      · cases h.symm.trans hs; exact .inr ⟨_, rfl⟩
    | seImm | sneImm | seReg | sneReg | skp | sknp => cases h; exact .inl (State.skipIf_mem _ _)
    | _ => cases h; exact .inl rfl

theorem exec_config {i : Instr} {s t : State} (h : exec i s = .next t) : t.config = s.config := by
  rcases exec_cases h with ⟨f, -, rfl⟩ | ⟨-, hframe⟩
  · rfl
  · exact hframe.config_eq

theorem exec_keepsMemory {i : Instr} {s t : State} (hwf : Memory.wf s.config s.mem) (h : exec i s = .next t) :
    Memory.wf t.config t.mem := by
  rw [exec_config h]
  rcases exec_memory h with hm | ⟨xs, hm⟩
  · rw [hm]; exact hwf
  · rw [hm]; exact Memory.wf_writeBlock _ _ hwf

/-- What R37 says of a stack entry: even, and at most 0x1000. -/
def EntryOk (a : Word) : Prop := a.toNat % 2 = 0 ∧ a.toNat ≤ 0x1000

/-- A push leaves its value in one entry and every other as it was (R29). -/
theorem stack_set_getElem (st : Vector Word 16) {n : Nat} (hn : n < 16) (a : Word) (k : Fin 16) :
    (st.set n a hn)[k] = if n = k.val then a else st[k] := Vector.getElem_set hn k.isLt

/-- Only 2nnn writes an entry, the address after its own (R102). -/
theorem exec_keepsStack {i : Instr} {s t : State} (hsp : -1 ≤ s.sp ∧ s.sp ≤ 15) (hst : ∀ k : Fin 16, EntryOk s.stack[k])
    (hpc : EntryOk s.pc) (h : exec i s = .next t) :
    (-1 ≤ t.sp ∧ t.sp ≤ 15) ∧ ∀ k : Fin 16, EntryOk t.stack[k] := by
  rcases exec_cases h with ⟨f, -, rfl⟩ | ⟨hr, hframe⟩
  · exact ⟨hsp, hst⟩
  · cases i with
    | call nnn =>
      have hroom := raisedBy_call_none hr
      cases h.symm.trans (execCall_of_room nnn hroom)
      refine ⟨⟨show -1 ≤ s.sp + 1 by omega, show s.sp + 1 ≤ 15 by omega⟩, fun k => ?_⟩
      rw [stack_set_getElem]
      split
      · exact hpc
      · exact hst k
    | ret x =>
      have hentry := raisedBy_ret_none hr
      cases h.symm.trans (execRet_of_entry x hentry)
      exact ⟨⟨show -1 ≤ s.sp - 1 by omega, show s.sp - 1 ≤ 15 by omega⟩, hst⟩
    | _ =>
      obtain ⟨hs, hp⟩ := hframe.stack_eq rfl
      rw [hs, hp]
      exact ⟨hsp, hst⟩

/-- The largest pc is that of an indexed jump, 0xFF + 0xFFF (R24, R107). -/
theorem pcAfter_le (i : Instr) {s : State} (hp : s.pc.toNat < 0x1000) (hst : ∀ k : Fin 16, EntryOk s.stack[k]) :
    pcAfter i s ≤ 0x10FE := by
  have hskip (p : Prop) [Decidable p] : (if p then s.pc.toNat + 4 else s.pc.toNat + 2) ≤ 0x10FE := by split <;> omega
  cases i with
  | seImm | sneImm | seReg | sneReg | skp | sknp => exact hskip _
  | jp nnn | call nnn => have := nnn.isLt; simp only [pcAfter]; omega
  | jpV0 nnn => have := nnn.isLt; have := (s.reg 0).isLt; simp only [pcAfter]; omega
  | ret x =>
    simp only [pcAfter]
    by_cases hk : s.sp.toNat < 16
    · obtain ⟨-, hle⟩ := hst ⟨s.sp.toNat, hk⟩
      rw [Vector.getElem?_eq_getElem hk]
      exact hle.trans (by decide)
    · rw [Vector.getElem?_eq_none (by omega)]; decide
  | ldVxK x => simp only [pcAfter]; split <;> omega
  | _ => simp only [pcAfter]; omega

/-! ## Every step -/

/-- Settles O21: a cycle that faults changes nothing the invariant reads but pc, by the advance; an instruction keeps
each part. -/
theorem stepKeepsTheInvariant : Obligations.StepKeepsTheInvariant := by
  intro s t hinv h
  have ⟨hwf, hsp, hst, hle⟩ := hinv
  rcases step_next_cases h with ⟨f, rfl⟩ | ⟨f, rfl⟩ | ⟨⟨-, hp, -⟩, -, f, rfl⟩ |
    ⟨⟨hnone, hp, -⟩, he, i, -, hexec, hframe⟩
  · exact hinv.of_eq rfl rfl rfl rfl hle
  · exact hinv.of_eq rfl rfl rfl rfl hle
  · refine hinv.of_eq rfl rfl rfl rfl ?_
    exact (advancePc_pc_toNat (s := prepared s) hp).le.trans (show s.pc.toNat + 2 ≤ 0x10FE by omega)
  · have hadv : (advancePc (prepared s)).pc.toNat = s.pc.toNat + 2 := advancePc_pc_toNat hp
    have hentry : EntryOk (advancePc (prepared s)).pc := by rw [EntryOk, hadv]; omega
    obtain ⟨hsp', hst'⟩ :=
      exec_keepsStack (s := advancePc (prepared s)) hsp hst hentry hexec
    refine ⟨exec_keepsMemory (s := advancePc (prepared s)) hwf hexec, hsp', hst', ?_⟩
    rw [exec_pc_toNat hp hexec (hframe.fault_eq.trans hnone)]
    exact pcAfter_le i hp hst

/-! ## Transactions and runs (R38, R239) -/

theorem Inv.writeBytes {s : State} (h : Inv s) (a : Nat) (xs : List Byte) : Inv (s.writeBytes a xs) := by
  obtain ⟨hwf, hrest⟩ := h
  exact ⟨Memory.wf_writeBlock a xs hwf, hrest⟩

theorem inv_hostReset (s : State) : Inv (hostReset s) := inv_resetWith s.config s.draws

theorem inv_hostWrite {s : State} (h : Inv s) (b : Byte) (a : Nat) : Inv (hostWrite b a s) := by
  obtain ⟨hwf, hrest⟩ := h
  exact ⟨Memory.wf_write a b hwf, hrest⟩

/-- A `write_opcode` that does not fail is a block store (R56). -/
theorem hostWriteOpcode_ok {s t : State} {op a : Nat} (h : hostWriteOpcode op a s = .ok t) :
    ∃ xs, t = s.writeBytes (cell a) xs := by
  dsimp only [hostWriteOpcode] at h
  split at h
  · cases h
  split at h
  · cases h
  cases h
  exact ⟨_, rfl⟩

theorem inv_hostWriteOpcode {s t : State} (h : Inv s) {op a : Nat} (hw : hostWriteOpcode op a s = .ok t) : Inv t := by
  obtain ⟨xs, rfl⟩ := hostWriteOpcode_ok hw
  exact h.writeBytes _ xs

/-- A load that fits leaves the invariant, whatever the state was (R63). -/
theorem inv_hostLoad {s : State} {bytes : List Byte} (h : bytes.length ≤ Config.programMaxLen) :
    Inv (hostLoad bytes s).2 := by
  rw [hostLoad_of_fits h]
  exact (inv_hostReset s).writeBytes _ _

theorem hostLoad_none {s t : State} {bytes : List Byte} (h : hostLoad bytes s = (none, t)) :
    bytes.length ≤ Config.programMaxLen := by
  by_contra hlong
  have hfault := hostLoad_of_long (not_le.1 hlong) s
  rw [h] at hfault
  cases hfault

theorem inv_applyTransaction {s : State} (h : Inv s) (x : Transaction)
    (hload : ∀ bytes, x = .load bytes → bytes.length ≤ Config.programMaxLen) : Inv (applyTransaction x s) := by
  cases x with
  | reset => exact inv_hostReset s
  | load bytes => exact inv_hostLoad (hload bytes rfl)
  | write b a => exact inv_hostWrite h b a
  | writeOpcode op a =>
    dsimp only [applyTransaction]
    split
    next hw => exact inv_hostWriteOpcode h hw
    next => exact h
  | setKey k p => exact h
  | read | readOpcode | fbRead | delayRead | soundRead | redrawRead | faultRead => exact h

/-- A transaction of a run that goes on is no failed load (R64). -/
theorem inv_applyTransaction_of_no_fault {x : Transaction} {s : State} (h : Inv s)
    (hf : (applyTransaction x s).fault = none) : Inv (applyTransaction x s) := by
  refine inv_applyTransaction h x fun bytes hx => ?_
  subst hx
  by_contra hlong
  cases hf.symm.trans (applyTransaction_load_long (not_le.1 hlong) s)

/-- Settles O22: each transaction by its own lemma, and a run by the induction of `runWith_keeps`. -/
theorem transactionsKeepTheInvariant : Obligations.TransactionsKeepTheInvariant := by
  intro s h
  refine ⟨inv_hostReset s, inv_hostWrite h, fun _ _ => h, fun _ _ _ => inv_hostWriteOpcode h, fun bytes t ht => ?_,
    inv_applyTransaction h, fun hs t hrun => ?_⟩
  · have hload := inv_hostLoad (s := s) (hostLoad_none ht)
    rwa [ht] at hload
  · obtain ⟨-, hinv⟩ := runWith_keeps (fun _ _ => inv_applyTransaction_of_no_fault)
      (fun u v hu hv _ => stepKeepsTheInvariant u v hu hv) h hrun
    exact hinv

end Sys2Proof.Machine
end

section
/-! PROOFS. 20_memory.md and 60_exceptions.md: memory as data, and the host's `write`, a failed `load` and `set_key`. -/

namespace Sys2Proof.Machine

/-! ## Memory as data -/

/-- In a rising list the listed byte of a cell is the one that is found. -/
theorem Memory.mem_iff_find? {m : Memory} (h : m.Pairwise (fun p q => p.1 < q.1)) (a : Nat) (x : Byte) :
    (a, x) ∈ m ↔ Memory.find? m a = some x := by
  induction m with
  | nil => simp [Memory.find?]
  | cons p m ih =>
    obtain ⟨b, y⟩ := p
    obtain ⟨hlt, hm⟩ := List.pairwise_cons.1 h
    rw [List.mem_cons, Memory.find?, ih hm]
    by_cases ha : a = b
    · subst ha
      have hnone : Memory.find? m a = none := Memory.find?_none_of_lt hlt
      simp [hnone, eq_comm]
    · simp [ha]

/-- The cells of a canonical memory are those that read other than their reset contents. -/
theorem Memory.mem_iff_read {c : Config} {m : Memory} (w : Memory.wf c m) (a : Nat) (x : Byte) :
    (a, x) ∈ m ↔ a < Config.memSize ∧ Memory.read c m a = x ∧ x ≠ Memory.background c a := by
  obtain ⟨hrising, hcells⟩ := w
  have hfind := Memory.mem_iff_find? hrising a
  constructor
  · intro hx
    obtain ⟨hlt, hne⟩ := hcells _ hx
    refine ⟨hlt, ?_, hne⟩
    rw [Memory.read, cell_of_lt hlt, (hfind x).1 hx, Option.getD_some]
  · rintro ⟨hlt, hread, hne⟩
    rw [Memory.read, cell_of_lt hlt] at hread
    cases hf : Memory.find? m a with
    | none => rw [hf, Option.getD_none] at hread; exact absurd hread.symm hne
    | some y => rw [hf, Option.getD_some] at hread; exact (hfind x).2 (hread ▸ hf)

/-- Settles O25: two canonical memories that read alike list the same cells in the same order. -/
theorem memoriesThatReadAlikeAreEqual : Obligations.MemoriesThatReadAlikeAreEqual := by
  intro c m m' w w' hread
  have hirrefl : Std.Irrefl fun p q : Host.Cell => p.1 < q.1 := ⟨fun p => lt_irrefl p.1⟩
  have hantisymm : Std.Antisymm fun p q : Host.Cell => p.1 < q.1 := ⟨fun _ _ h h' => absurd h' h.asymm⟩
  have ⟨hrising, _⟩ := w
  have ⟨hrising', _⟩ := w'
  refine hrising.eq_of_mem_iff hrising' fun ⟨a, x⟩ => ?_
  rw [Memory.mem_iff_read w, Memory.mem_iff_read w']
  exact and_congr_right fun ha => by rw [hread a ha]

/-! ## The host's `write` (R54, C19) -/

/-- Settles O24: the written byte at every address of its cell, and the old one at every other. -/
theorem hostWriteIsReadBack : Obligations.HostWriteIsReadBack := by
  refine fun s b a w => ⟨fun c => ?_, rfl⟩
  split
  next h => exact Memory.read_write_same a b w h
  next h => exact Memory.read_write_ne _ _ b h

/-! ## A failed `load` (R64) -/

/-- Settles O28: the load records its fault, and a recorded fault stops the step. -/
theorem failedLoadStopsTheMachine : Obligations.FailedLoadStopsTheMachine :=
  fun s _ hlong => step_of_some_fault (applyTransaction_load_long hlong s)

/-! ## `set_key` (R210) -/

theorem setKey_keys (k : Key) (p : Bool) (s : State) (j : Key) :
    (setKey k p s).keys[j] = if j = k then p else s.keys[j] := by
  have hget : (setKey k p s).keys[j] = if k.val = j.val then p else s.keys[j] := Vector.getElem_set k.isLt j.isLt
  rw [hget]
  exact if_congr (Fin.val_inj.trans eq_comm) rfl rfl

/-- Only reset, `load` and `set_key` write the latches (R33). -/
theorem applyTransaction_keys {x : Transaction} {k : Key} (s : State) (hreset : x ≠ .reset)
    (hload : ∀ bytes, x ≠ .load bytes) (hset : ∀ q, x ≠ .setKey k q) : (applyTransaction x s).keys[k] = s.keys[k] := by
  cases x with
  | reset => exact absurd rfl hreset
  | load bytes => exact absurd rfl (hload bytes)
  | setKey j q =>
    have hne : k ≠ j := fun h => hset q (h ▸ rfl)
    exact (setKey_keys j q s k).trans (if_neg hne)
  | writeOpcode op a =>
    dsimp only [applyTransaction]
    split
    next hw => obtain ⟨xs, rfl⟩ := hostWriteOpcode_ok hw; rfl
    next => rfl
  | _ => rfl

/-- Settles O30: `set_key` writes one latch, no step writes any, and the transactions by `applyTransaction_keys`. -/
theorem setKeySetsOneLatch : Obligations.SetKeySetsOneLatch := by
  intro s k p
  refine ⟨setKey_keys k p s, rfl, fun t ht => ?_, fun x => applyTransaction_keys s, hostReset_keys s⟩
  obtain ⟨hkeys, -⟩ := stepNeverWritesKeysOrParameters s t ht
  exact hkeys

end Sys2Proof.Machine
end

section
/-! PROOFS. 40_control_flow.md: call and return (R100, R102), the jumps (R101, R107) and the skips on two registers
(R105, R106). -/

namespace Sys2Proof.Machine

/-! ## Call and return -/

/-- Settles O31: with room the entry above the top gets pc; without, the push faults. -/
theorem callPushesAndJumps : Obligations.CallPushesAndJumps := by
  refine fun nnn s => ⟨fun hl hu => ⟨_, execCall_of_room nnn ⟨hl, hu⟩, absolute_toNat nnn, rfl, fun k => ?_, rfl, rfl⟩,
    fun hsp => execCall_of_full nnn (by omega)⟩
  rw [stack_set_getElem]
  exact if_congr (by omega) rfl rfl

/-- Settles O32: the entry at sp is popped into pc and stays in the stack; an empty stack faults. -/
theorem returnPopsThePc : Obligations.ReturnPopsThePc := by
  refine fun x s => ⟨fun k hk => ?_, fun hsp => execRet_of_empty x (by omega)⟩
  have hentry : 0 ≤ s.sp ∧ s.sp ≤ 15 := by omega
  refine ⟨_, execRet_of_entry x hentry, ?_, rfl, rfl, rfl, rfl⟩
  simp only [hk, Int.toNat_natCast]; rfl

/-! ## Jumps -/

/-- A target below 0x1000 that is odd faults in the next cycle (R84, R108). -/
theorem step_setPc_of_odd {s : State} {a : Word} (hf : s.fault = none) (hl : -1 ≤ s.sp) (hu : s.sp ≤ 15)
    (hp : a.toNat < 0x1000) (ho : a.toNat % 2 = 1) :
    ∃ u, step (s.setPc a) = .next u ∧ u.fault = some .addressValueIsNotEven :=
  ⟨_, step_of_odd (s := s.setPc a) ⟨hf, hp, hl, hu⟩ ho, rfl⟩

/-- Settles O33: both jumps are one write of pc, exact for every target, and the next cycle checks it. -/
theorem jumpsSetThePc : Obligations.JumpsSetThePc := by
  intro nnn s
  have habs : (absolute nnn).toNat = nnn.toNat := absolute_toNat nnn
  have hsum : (indexedTarget s nnn).toNat = (s.reg 0).toNat + nnn.toNat := indexedTarget_toNat s nnn
  have hlt : nnn.toNat < 0x1000 := nnn.isLt
  refine ⟨?_, ?_, ⟨_, rfl, habs, rfl, rfl, fun hf hl hu ho => ?_⟩, ⟨_, rfl, hsum, rfl, rfl, fun hf hp => ?_,
    fun hf hl hu hp ho => ?_⟩⟩
  · exact (congrArg decodeWord (ofNat_fields_eq_packN12 0x1 nnn)).trans (decodeWord_encode (.jp nnn))
  · exact (congrArg decodeWord (ofNat_fields_eq_packN12 0xB nnn)).trans (decodeWord_encode (.jpV0 nnn))
  · exact step_setPc_of_odd hf hl hu (by omega) (by omega)
  · exact step_of_pc_outOfRange (s := s.setPc (indexedTarget s nnn)) hf (hp.trans hsum.ge)
  · exact step_setPc_of_odd hf hl hu (by omega) (by omega)

/-! ## Skips on two registers -/

/-- A word written as the sum of its four fields' weights is the packed word. -/
theorem ofNat_fields_eq_packXYN (g : Nibble) (x y : Reg) (n : Nibble) :
    BitVec.ofNat 16 (g.toNat * 0x1000 + x.val * 0x100 + y.val * 0x10 + n.toNat) = packXYN g x y n := by
  rw [← packXYN_toNat, BitVec.ofNat_toNat, BitVec.setWidth_eq]

/-- Settles O35: both skips are `skipIf` on their own condition, whatever the ignored nibble is. -/
theorem registerSkips : Obligations.RegisterSkips := by
  intro x y n s
  obtain ⟨hpc, hv, hfault, -⟩ := skipIf_spec s (c := s.reg x == s.reg y) beq_iff_eq
  obtain ⟨hpc', hv', hfault', -⟩ := skipIf_spec s (c := s.reg x != s.reg y) bne_iff_ne
  refine ⟨?_, ?_, ⟨_, rfl, hpc, hv, hfault⟩, ⟨_, rfl, hpc', hv', hfault'⟩⟩
  · exact (congrArg decodeWord (ofNat_fields_eq_packXYN 0x5 x y n)).trans (decodeWord_encode (.seReg x y n))
  · exact (congrArg decodeWord (ofNat_fields_eq_packXYN 0x9 x y n)).trans (decodeWord_encode (.sneReg x y n))

end Sys2Proof.Machine
end

section
/-! PROOFS. 41_alu.md: the operations on two registers (R122 to R130) and the random draw (R131). -/

namespace Sys2Proof.Machine

/-! ## Copy and the bitwise operations (R122 to R125) -/

/-- One register write: the written value, VF kept unless it is the register, and no fault. -/
theorem setReg_spec (s : State) (x : Reg) (b : Byte) :
    (s.setReg x b).reg x = b ∧ (x ≠ VF → (s.setReg x b).reg VF = s.reg VF) ∧ (s.setReg x b).fault = s.fault :=
  ⟨s.reg_setReg_same x b, s.reg_VF_setReg b, s.setReg_fault x b⟩

/-- A word of group 8 written as the sum of its fields' weights decodes to the instruction that packs to it. -/
theorem decodeWord_group8 (x y : Reg) (n : Nibble) {i : Instr} (h : encode i = packXYN 0x8 x y n) :
    decodeWord (BitVec.ofNat 16 (0x8000 + x.val * 0x100 + y.val * 0x10 + n.toNat)) = .ok i :=
  (congrArg decodeWord (ofNat_fields_eq_packXYN 0x8 x y n)).trans (h ▸ decodeWord_encode i)

/-- Settles O37: each of the four is one register write. -/
theorem copyAndBitwise : Obligations.CopyAndBitwise := by
  intro x y s
  simp only [List.forall_mem_cons]
  have hone (b : Byte) := setReg_spec s x b
  exact ⟨⟨decodeWord_group8 x y 0 rfl, _, rfl, hone _⟩, ⟨decodeWord_group8 x y 1 rfl, _, rfl, hone _⟩,
    ⟨decodeWord_group8 x y 2 rfl, _, rfl, hone _⟩, ⟨decodeWord_group8 x y 3 rfl, _, rfl, hone _⟩, nofun⟩

/-! ## The flag, then the result (R126 to R130; log 7) -/

/-- The flag stays in VF when the result goes elsewhere. -/
theorem reg_VF_setReg_setReg (s : State) {x : Reg} (c b : Byte) (h : x ≠ VF) :
    ((s.setReg VF c).setReg x b).reg VF = c := by
  rw [State.reg_VF_setReg _ _ h, State.reg_setReg_same]

theorem flagByte_decide (p : Prop) [Decidable p] : flagByte (decide p) = if p then 1 else 0 := by
  simp [flagByte]

theorem greaterFlag_eq (a b : Byte) : greaterFlag a b = if a.toNat > b.toNat then 1 else 0 := flagByte_decide _

theorem greaterFlag_toNat (a b : Byte) : (greaterFlag a b).toNat = if a.toNat > b.toNat then 1 else 0 := by
  rw [greaterFlag_eq]; split <;> rfl

theorem byte_sub_toNat (a b : Byte) : (a - b).toNat = (256 + a.toNat - b.toNat) % 256 := by
  rw [BitVec.toNat_sub]; omega

/-- Settles O38: the sum is that of the old operands, and it is written last. -/
theorem addWithCarry : Obligations.AddWithCarry := by
  refine fun x y s => ⟨_, rfl, ?_, fun hx => ?_, rfl⟩
  · rw [State.reg_setReg_same, BitVec.toNat_ofNat]
  · rw [reg_VF_setReg_setReg _ _ _ hx]; exact flagByte_decide _

/-- The difference of 8xy5 and 8xy7, whose operands are read after the flag is written (log 7): `m` is the minuend's
register, `k` the subtrahend's. -/
def flagDifference (s : State) (m k : Reg) : Byte :=
  let t := s.setReg VF (greaterFlag (s.reg m) (s.reg k))
  t.reg m - t.reg k

section
variable {m k : Reg} (s : State)

theorem flagDifference_of_ne (hm : m ≠ VF) (hk : k ≠ VF) :
    (flagDifference s m k).toNat = (256 + (s.reg m).toNat - (s.reg k).toNat) % 256 := by
  rw [flagDifference, byte_sub_toNat, State.reg_setReg_ne _ _ _ _ hm, State.reg_setReg_ne _ _ _ _ hk]

theorem flagDifference_VF_right (hm : m ≠ VF) : (flagDifference s m VF).toNat =
    (256 + (s.reg m).toNat - if (s.reg m).toNat > (s.reg VF).toNat then 1 else 0) % 256 := by
  rw [flagDifference, byte_sub_toNat, State.reg_setReg_ne _ _ _ _ hm, State.reg_setReg_same, greaterFlag_toNat]

theorem flagDifference_VF_left (hk : k ≠ VF) : (flagDifference s VF k).toNat =
    (256 + (if (s.reg VF).toNat > (s.reg k).toNat then 1 else 0) - (s.reg k).toNat) % 256 := by
  rw [flagDifference, byte_sub_toNat, State.reg_setReg_ne _ _ _ _ hk, State.reg_setReg_same, greaterFlag_toNat]

theorem flagDifference_self (m : Reg) : flagDifference s m m = 0 := BitVec.sub_self _

end

/-- 8xy5 and 8xy7 are the flag, then the difference. -/
theorem execSub_eq (x y : Reg) (s : State) : execSub x y s =
    .next ((s.setReg VF (greaterFlag (s.reg x) (s.reg y))).setReg x (flagDifference s x y)) := rfl

theorem execSubn_eq (x y : Reg) (s : State) : execSubn x y s =
    .next ((s.setReg VF (greaterFlag (s.reg y) (s.reg x))).setReg x (flagDifference s y x)) := rfl

/-- Settles O39: the four cases of the difference of x and y. -/
theorem subtractClosedForms : Obligations.SubtractClosedForms := by
  refine fun x y s => ⟨_, execSub_eq x y s, rfl, fun hx => ?_, fun hx hy => ?_, fun hx hy => ?_, fun hx hy => ?_,
    fun hx hy => ?_⟩
  · rw [reg_VF_setReg_setReg _ _ _ hx, greaterFlag_eq]
  · rw [State.reg_setReg_same, flagDifference_of_ne s hx hy]
  · rw [State.reg_setReg_same, hy, flagDifference_VF_right s hx]
  · rw [hx, State.reg_setReg_same, flagDifference_VF_left s hy]
  · rw [hx, hy, State.reg_setReg_same, flagDifference_self]

/-- Settles O40: the four cases of the difference of y and x. -/
theorem reverseSubtractClosedForms : Obligations.ReverseSubtractClosedForms := by
  refine fun x y s => ⟨_, execSubn_eq x y s, rfl, fun hx => ?_, fun hx hy => ?_, fun hx hy => ?_, fun hx hy => ?_,
    fun hx hy => ?_⟩
  · rw [reg_VF_setReg_setReg _ _ _ hx, greaterFlag_eq]
  · rw [State.reg_setReg_same, flagDifference_of_ne s hy hx]
  · rw [State.reg_setReg_same, hy, flagDifference_VF_left s hx]
  · rw [hx, State.reg_setReg_same, flagDifference_VF_right s hy]
  · rw [hx, hy, State.reg_setReg_same, flagDifference_self]

/-! ## Shifts (R128, R130) -/

theorem byte_shiftRight_toNat (a : Byte) : (a >>> 1).toNat = a.toNat / 2 := by
  rw [BitVec.toNat_ushiftRight, Nat.shiftRight_eq_div_pow]

theorem byte_shiftLeft_toNat (a : Byte) : (a <<< 1).toNat = a.toNat * 2 % 256 := by
  rw [BitVec.toNat_shiftLeft, Nat.shiftLeft_eq]

theorem shiftedOutRight_toNat (a : Byte) : (shiftedOutRight a).toNat = a.toNat % 2 :=
  (BitVec.toNat_and a 0x01).trans (Nat.and_one_is_mod a.toNat)

/-- The bit shifted out on the left stays in place (C9). -/
theorem shiftedOutLeft_eq (a : Byte) : shiftedOutLeft a = if 128 ≤ a.toNat then 0x80 else 0 := by
  have hbit : a.getLsbD 7 = decide (128 ≤ a.toNat) := BitVec.msb_eq_decide a
  have hand : a &&& 0x80 = if a.getLsbD 7 then 0x80 else 0 := BitVec.and_twoPow a 7
  rw [shiftedOutLeft, hand, hbit]; simp

/-- Settles O41: away from VF the shift reads the old register; at VF it shifts the flag's one bit out. -/
theorem shiftsByOnePlace : Obligations.ShiftsByOnePlace := by
  refine fun x y s => ⟨⟨_, rfl, rfl, fun hx => ⟨?_, ?_⟩, fun hx => ?_⟩, ⟨_, rfl, rfl, fun hx => ⟨?_, ?_⟩, fun hx => ?_⟩⟩
  · rw [State.reg_setReg_same, State.reg_setReg_ne _ _ _ _ hx, byte_shiftRight_toNat]
  · rw [reg_VF_setReg_setReg _ _ _ hx, shiftedOutRight_toNat]
  · subst hx
    apply BitVec.eq_of_toNat_eq
    rw [State.reg_setReg_same, State.reg_setReg_same, byte_shiftRight_toNat, shiftedOutRight_toNat]
    exact Nat.div_eq_of_lt (Nat.mod_lt _ (by decide))
  · rw [State.reg_setReg_same, State.reg_setReg_ne _ _ _ _ hx, byte_shiftLeft_toNat]
  · rw [reg_VF_setReg_setReg _ _ _ hx, shiftedOutLeft_eq]
  · subst hx
    rw [State.reg_setReg_same, State.reg_setReg_same, shiftedOutLeft_eq]
    split <;> rfl

/-! ## The random draw (R131) -/

/-- Settles O42: one register write, of the draw under the mask. -/
theorem randomTakesOneDrawUnderTheMask : Obligations.RandomTakesOneDrawUnderTheMask := by
  intro x nn s
  obtain ⟨hx, hvf, hfault⟩ := setReg_spec { s with draws := s.draws + 1 } x (Config.rnd s.draws &&& nn)
  refine ⟨_, rfl, hx, fun hnn => ?_, hvf, rfl, hfault⟩
  rw [hnn] at hx ⊢
  exact hx.trans BitVec.and_zero

end Sys2Proof.Machine
end

section
/-! PROOFS. 42_index_memory.md: the stores from I on (R143, R144); 43_display.md: the clear screen (R150);
44_keys_timers.md: the key wait (R163) and the timers (R162, R164, R165). -/

namespace Sys2Proof.Machine

/-! ## Stores from I on -/

/-- A block stored from I on is read back at its effective addresses (R51). -/
theorem readByte_writeBytes_index {s : State} (w : Memory.wf s.config s.mem) (xs : List Byte)
    (len : xs.length ≤ Config.memSize) {k : Nat} (hk : k < xs.length) :
    (s.writeBytes s.i.toNat xs).readByte ((s.i.toNat + k) % 0x1000) = xs[k] :=
  (State.readByte_cell _ _).trans (State.readByte_writeBytes_inside s s.i.toNat xs w len hk)

theorem ofNat_toNat_of_lt {n : Nat} (h : n < 256) : (BitVec.ofNat 8 n).toNat = n := by
  rw [BitVec.toNat_ofNat, Nat.mod_eq_of_lt h]

/-- Settles O44: the policy lets the block of three digits be stored, and each is read back. -/
theorem bcdStoresTheDecimalDigits : Obligations.BcdStoresTheDecimalDigits := by
  intro x s w hpolicy
  have hlt : (s.reg x).toNat < 256 := (s.reg x).isLt
  have hread {k : Nat} (hk : k < 3) := readByte_writeBytes_index w (bcdDigits (s.reg x)) (by simp [Config.memSize]) hk
  refine ⟨_, storeBlock_of_allowed (bcdDigits_length _) (fontCheck_passes hpolicy), ?_, ?_, ?_, rfl, rfl, rfl⟩
  · rw [hread (k := 0) (by decide)]; exact ofNat_toNat_of_lt (by omega)
  · rw [hread (k := 1) (by decide)]; exact ofNat_toNat_of_lt (by omega)
  · rw [hread (k := 2) (by decide)]; exact ofNat_toNat_of_lt (by omega)

/-- Settles O45: the policy lets the block of registers be stored, and each is read back. -/
theorem registersAreStoredFromIndex : Obligations.RegistersAreStoredFromIndex := by
  intro x s w hpolicy
  have hallowed := fontCheck_passes (n := x.val + 1) (hpolicy.imp_right fun h k hk => h k (Nat.lt_succ_iff.1 hk))
  refine ⟨_, storeBlock_of_allowed (regBlock_length s x) hallowed, fun k hk => ?_, rfl, rfl, rfl⟩
  have hlen : (regBlock s x).length ≤ Config.memSize := by have := x.isLt; rw [regBlock_length, Config.memSize]; omega
  have hin : k.val < (regBlock s x).length := by rw [regBlock_length]; exact Nat.lt_succ_iff.2 hk
  rw [readByte_writeBytes_index w _ hlen hin, regBlock_getElem]

/-! ## The clear screen -/

/-- Settles O48: every pixel of the cleared frame buffer is 0. -/
theorem clearScreenClearsEveryPixel : Obligations.ClearScreenClearsEveryPixel :=
  fun x _ => ⟨(congrArg decodeWord (ofNat_match_add_x_eq_packXNN 0x0 x 0xE0)).trans (decodeWord_encode (.cls x)),
    _, rfl, pixel_clearedFb, rfl, rfl, rfl⟩

/-! ## The key wait and the timers -/

/-- A pressed key with none pressed below it is the lowest (R163). -/
theorem lowestPressed_eq_some {s : State} {k : Key} (hk : s.keys[k] = true)
    (hlow : ∀ j : Key, j < k → s.keys[j] = false) :
    lowestPressed s = some k := by
  cases h : lowestPressed s with
  | none => cases hk.symm.trans ((lowestPressed_none_iff s).1 h k)
  | some j =>
    obtain ⟨hj, hjlow⟩ := lowestPressed_some h
    rcases lt_trichotomy j k with hlt | rfl | hgt
    · cases hj.symm.trans (hlow j hlt)
    · rfl
    · cases hk.symm.trans (hjlow k hgt)

/-- Settles O52: the scan finds the lowest pressed key, or none. -/
theorem keyWaitTakesTheLowestKeyOrRewinds : Obligations.KeyWaitTakesTheLowestKeyOrRewinds := by
  refine fun x s => ⟨fun k hk hlow => ?_, fun hnone => ?_⟩
  · refine ⟨_, execLdVxK_of_pressed x (lowestPressed_eq_some hk hlow), ?_, rfl, rfl⟩
    rw [State.reg_setReg_same]
    exact ofNat_toNat_of_lt (by omega)
  · exact ⟨_, execLdVxK_of_none x ((lowestPressed_none_iff s).2 hnone), rfl, rfl, rfl⟩

/-- Settles O53: a transfer is one write, of the register or of the timer. -/
theorem timerTransfers : Obligations.TimerTransfers :=
  fun x s => ⟨⟨_, rfl, s.reg_setReg_same x s.delayTimer, rfl, rfl⟩, ⟨_, rfl, rfl, rfl, rfl⟩, ⟨_, rfl, rfl, rfl, rfl⟩⟩

end Sys2Proof.Machine
end

section
/-! PROOFS. 43_display.md: the draw, pixel by pixel (R151 to R153). -/

namespace Sys2Proof.Machine

/-! ## A pixel's place in the sprite -/

/-- A pixel's row and column offsets from the sprite's origin, both wrapping (R151). -/
def rowOffset (y0 : Nat) (row : Fin 32) : Nat := (row.val + 32 - y0 % 32) % 32

def colOffset (x0 : Nat) (col : Fin 64) : Nat := (col.val + 64 - x0 % 64) % 64

theorem eq_ofNat_iff_rowOffset {y0 r : Nat} (hr : r < 32) (row : Fin 32) :
    row = Fin.ofNat 32 (y0 + r) ↔ rowOffset y0 row = r := by
  rw [Fin.ext_iff, Fin.val_ofNat, rowOffset]; omega

theorem eq_ofNat_iff_colOffset {x0 c : Nat} (hc : c < 64) (col : Fin 64) :
    col = Fin.ofNat 64 (x0 + c) ↔ colOffset x0 col = c := by
  rw [Fin.ext_iff, Fin.val_ofNat, colOffset]; omega

/-! ## The sprite drawn in part -/

/-- The pixels a sprite covers with its rows below `r` and the columns below `c` of row `r`. -/
def coversUpTo (read : Nat → Byte) (x0 y0 r c : Nat) (row : Fin 32) (col : Fin 64) : Bool :=
  decide (colOffset x0 col < 8 ∧ (rowOffset y0 row < r ∨ rowOffset y0 row = r ∧ colOffset x0 col < c)) &&
    (read (rowOffset y0 row)).getLsbD (7 - colOffset x0 col)

section
variable (read : Nat → Byte) (x0 y0 : Nat) (row : Fin 32) (col : Fin 64)

theorem coversUpTo_zero : coversUpTo read x0 y0 0 0 row col = false := by
  simp [coversUpTo]

/-- A row drawn to its last column is drawn. -/
theorem coversUpTo_rowEnd (r : Nat) : coversUpTo read x0 y0 r 8 row col = coversUpTo read x0 y0 (r + 1) 0 row col := by
  unfold coversUpTo
  congr 2
  rw [eq_iff_iff]; omega

theorem coversUpTo_all (n : Nat) : coversUpTo read x0 y0 n 0 row col = spriteCovers read x0 y0 n row col := by
  simp [coversUpTo, spriteCovers, rowOffset, colOffset, Bool.and_comm]

/-- The pixel of a sprite bit is not covered before that bit is drawn: no other bit of the sprite lands on it. -/
theorem coversUpTo_fresh {r c : Nat} (hr : r < 32) (hc : c < 8) :
    coversUpTo read x0 y0 r c (Fin.ofNat 32 (y0 + r)) (Fin.ofNat 64 (x0 + c)) = false := by
  have hrow : rowOffset y0 (Fin.ofNat 32 (y0 + r)) = r := (eq_ofNat_iff_rowOffset hr _).1 rfl
  have hcol : colOffset x0 (Fin.ofNat 64 (x0 + c)) = c := (eq_ofNat_iff_colOffset (by omega) _).1 rfl
  rw [coversUpTo, hrow, hcol]; simp

/-- One more sprite bit covers its own pixel, if it is set. -/
theorem coversUpTo_succ {r c : Nat} (hr : r < 32) (hc : c < 8) :
    coversUpTo read x0 y0 r (c + 1) row col = (coversUpTo read x0 y0 r c row col ||
      ((read r).getLsbD (7 - c) && decide (row = Fin.ofNat 32 (y0 + r)) && decide (col = Fin.ofNat 64 (x0 + c)))) := by
  simp only [eq_ofNat_iff_rowOffset hr, eq_ofNat_iff_colOffset (show c < 64 by omega), coversUpTo]
  by_cases hhere : rowOffset y0 row = r ∧ colOffset x0 col = c
  · obtain ⟨rfl, rfl⟩ := hhere
    simp [hc]
  · have hold : (colOffset x0 col < 8 ∧ (rowOffset y0 row < r ∨ rowOffset y0 row = r ∧ colOffset x0 col < c + 1)) ↔
        (colOffset x0 col < 8 ∧ (rowOffset y0 row < r ∨ rowOffset y0 row = r ∧ colOffset x0 col < c)) := by omega
    have hnew : (decide (rowOffset y0 row = r) && decide (colOffset x0 col = c)) = false := by simpa using hhere
    rw [Bool.and_assoc, hnew, Bool.and_false, Bool.or_false, decide_eq_decide.2 hold]

end

/-! ## The loops -/

/-- What a drawing has done so far: each covered pixel is inverted, and an erasure is recorded exactly if one of them
was 1. -/
def Drawn (fb : FrameBuffer) (covers : Fin 32 → Fin 64 → Bool) (acc : DrawAcc) : Prop :=
  (∀ row col, pixel acc.1 row col = (pixel fb row col ^^ covers row col)) ∧
  (acc.2 = true ↔ ∃ row col, covers row col = true ∧ pixel fb row col = true)

section
variable {fb : FrameBuffer} {x0 y0 r : Nat} {acc : DrawAcc}

theorem Drawn.bit {read : Nat → Byte} {c : Nat} (hr : r < 32) (hc : c < 8)
    (h : Drawn fb (coversUpTo read x0 y0 r c) acc) :
    Drawn fb (coversUpTo read x0 y0 r (c + 1)) (drawBit x0 y0 (read r) r acc c) := by
  obtain ⟨hpixel, herased⟩ := h
  have hfresh := coversUpTo_fresh read x0 y0 hr hc
  have hsucc (row : Fin 32) (col : Fin 64) := coversUpTo_succ read x0 y0 row col hr hc
  constructor
  · intro row col
    obtain ⟨hbit, -⟩ := drawBit_spec x0 y0 (read r) r acc c row col
    rw [hbit, hpixel, hsucc]
    by_cases hhere : row = Fin.ofNat 32 (y0 + r) ∧ col = Fin.ofNat 64 (x0 + c)
    · obtain ⟨rfl, rfl⟩ := hhere
      rw [hfresh, Bool.xor_false, Bool.false_or]
    · have hno : (decide (row = Fin.ofNat 32 (y0 + r)) && decide (col = Fin.ofNat 64 (x0 + c))) = false := by
        simpa using hhere
      rw [Bool.and_assoc, hno, Bool.and_false, Bool.xor_false, Bool.or_false]
  · obtain ⟨-, hbit⟩ := drawBit_spec x0 y0 (read r) r acc c 0 0
    rw [hbit, Bool.or_eq_true, herased, Bool.and_eq_true, hpixel, hfresh, Bool.xor_false]
    simp only [hsucc, Bool.or_eq_true, Bool.and_eq_true, decide_eq_true_eq]
    constructor
    · rintro (⟨row, col, hcov, hp⟩ | ⟨hset, hp⟩)
      · exact ⟨row, col, .inl hcov, hp⟩
      · exact ⟨_, _, .inr ⟨⟨hset, rfl⟩, rfl⟩, hp⟩
    · rintro ⟨row, col, hcov | ⟨⟨hset, rfl⟩, rfl⟩, hp⟩
      · exact .inl ⟨row, col, hcov, hp⟩
      · exact .inr ⟨hset, hp⟩

/-- The inner loop, over the columns of one row. -/
theorem Drawn.bits {read : Nat → Byte} (hr : r < 32) (h : Drawn fb (coversUpTo read x0 y0 r 0) acc) {c : Nat}
    (hc : c ≤ 8) :
    Drawn fb (coversUpTo read x0 y0 r c) ((List.range c).foldl (drawBit x0 y0 (read r) r) acc) := by
  induction c with
  | zero => exact h
  | succ c ih =>
    rw [List.range_succ, List.foldl_append]
    exact (ih (by omega)).bit hr hc

/-- The bytes of the sprite at I, row by row (R151). -/
def spriteBytes (s : State) (r : Nat) : Byte := s.readByte ((s.i.toNat + r) % 0x1000)

theorem Drawn.row {s : State} (hr : r < 32) (h : Drawn fb (coversUpTo (spriteBytes s) x0 y0 r 0) acc) :
    Drawn fb (coversUpTo (spriteBytes s) x0 y0 (r + 1) 0) (drawRow s x0 y0 acc r) := by
  have hrow : Drawn fb (coversUpTo (spriteBytes s) x0 y0 r 8) (drawRow s x0 y0 acc r) := h.bits hr le_rfl
  simpa only [Drawn, coversUpTo_rowEnd] using hrow

/-- The outer loop, over the rows. -/
theorem drawn_rows (s : State) (x0 y0 : Nat) {n : Nat} (hn : n ≤ 32) :
    Drawn s.fb (coversUpTo (spriteBytes s) x0 y0 n 0) ((List.range n).foldl (drawRow s x0 y0) (s.fb, false)) := by
  induction n with
  | zero => simp [Drawn, coversUpTo_zero]
  | succ n ih =>
    rw [List.range_succ, List.foldl_append]
    exact (ih (by omega)).row hn

theorem drawn_sprite (s : State) (x0 y0 : Nat) {n : Nat} (hn : n ≤ 32) :
    Drawn s.fb (spriteCovers (spriteBytes s) x0 y0 n) (drawSprite s x0 y0 n) := by
  have hrows : Drawn s.fb (coversUpTo (spriteBytes s) x0 y0 n 0) (drawSprite s x0 y0 n) := drawn_rows s x0 y0 hn
  simpa only [Drawn, coversUpTo_all] using hrows

end

/-! ## The instruction -/

/-- The pixels that Dxyn's sprite covers. -/
def drwCovers (x y : Reg) (n : Nibble) (s : State) : Fin 32 → Fin 64 → Bool :=
  spriteCovers (spriteBytes s) (s.reg x).toNat (s.reg y).toNat n.toNat

/-- Dxyn inverts the covered pixels, reports in VF whether one of them was 1, sets the latch, and changes nothing
else. -/
theorem execDrw_spec (x y : Reg) (n : Nibble) (s : State) : ∃ t, exec (.drw x y n) s = .next t ∧
    (∀ row col, pixel t.fb row col = (pixel s.fb row col ^^ drwCovers x y n s row col)) ∧
    ((∃ row col, drwCovers x y n s row col = true ∧ pixel s.fb row col = true) → t.reg VF = 1) ∧
    ((¬ ∃ row col, drwCovers x y n s row col = true ∧ pixel s.fb row col = true) → t.reg VF = 0) ∧
    { t with v := s.v } = { s with fb := t.fb, redraw := true } := by
  obtain ⟨hpixel, herased⟩ := drawn_sprite s (s.reg x).toNat (s.reg y).toNat (n := n.toNat) (by omega)
  have hflag (c : Bool) : (s.setReg VF (collisionFlag c)).reg VF = collisionFlag c := State.reg_setReg_same _ _ _
  exact ⟨_, rfl, hpixel, fun hhit => (hflag _).trans (congrArg collisionFlag (herased.2 hhit)),
    fun hmiss => (hflag _).trans (congrArg collisionFlag (Bool.eq_false_iff.2 (mt herased.1 hmiss))), rfl⟩

/-- Settles O49: the instruction's covered pixels are the sprite's at the old V[x] and V[y]. -/
theorem drawIsPointwiseXor : Obligations.DrawIsPointwiseXor := by
  intro x y n s
  obtain ⟨t, ht, hpixel, hhit, hmiss, hrest⟩ := execDrw_spec x y n s
  refine ⟨t, ht, hpixel, fun ⟨row, col, hp, hcov⟩ => hhit ⟨row, col, hcov, hp⟩, fun hnone => hmiss ?_, ?_, ?_⟩
  · rintro ⟨row, col, hcov, hp⟩; exact Bool.false_ne_true ((hnone row col hp).symm.trans hcov)
  · exact (congrArg State.redraw hrest :)
  · exact (congrArg State.fault hrest :)

/-- Settles O50: both draws cover the same pixels, so the second inverts them back, and a covered pixel is 1 before one
of the two. -/
theorem drawingTwiceRestoresTheScreen : Obligations.DrawingTwiceRestoresTheScreen := by
  intro x y n s
  obtain ⟨t, ht, hpixel, hhit, hmiss, hrest⟩ := execDrw_spec x y n s
  obtain ⟨u, hu, hpixel', hhit', hmiss', -⟩ := execDrw_spec x y n { s with fb := t.fb, redraw := true }
  have hcovers : drwCovers x y n { s with fb := t.fb, redraw := true } = drwCovers x y n s := rfl
  rw [hcovers] at hpixel' hhit' hmiss'
  have hback (row col) : pixel u.fb row col = pixel s.fb row col := by
    rw [hpixel', hpixel, Bool.xor_assoc, Bool.xor_self, Bool.xor_false]
  refine ⟨t, u, ht, hrest ▸ hu, FrameBuffer.ext_pixels hback, ?_, fun hclear => ⟨hmiss ?_, ?_, ?_⟩⟩
  · rintro ⟨row, col, hcov⟩
    cases hp : pixel s.fb row col with
    | true => exact .inl (hhit ⟨row, col, hcov, hp⟩)
    | false =>
      have ht1 : pixel t.fb row col = true := by rw [hpixel, hp, Bool.false_xor]; exact hcov
      exact .inr (hhit' ⟨row, col, hcov, ht1⟩)
  · rintro ⟨row, col, -, hp⟩; exact Bool.false_ne_true ((hclear row col).symm.trans hp)
  · intro hone
    by_contra hdark
    have hzero : u.reg VF = 0 := hmiss' fun ⟨row, col, _, ht1⟩ => hdark ⟨row, col, ht1⟩
    cases hone.symm.trans hzero
  · rintro ⟨row, col, ht1⟩
    have hcov : drwCovers x y n s row col = true := by rwa [hpixel, hclear, Bool.false_xor] at ht1
    exact hhit' ⟨row, col, hcov, ht1⟩

end Sys2Proof.Machine
end

section
/-! PROOFS. 10_state.md: I is written by three instructions and read by five (R23), and the sound timer is read by none
(R31). -/

namespace Sys2Proof.Machine

/-! ## The writers of I (R23; log 8) -/

/-- An instruction whose frame does not name I keeps it, whether it faults or not. -/
theorem exec_index {i : Instr} {s t : State} (hu : (touches i s).index = false) (h : exec i s = .next t) :
    t.i = s.i := by
  rcases exec_cases h with ⟨f, -, rfl⟩ | ⟨-, hframe⟩
  · rfl
  · exact hframe.i_eq hu

theorem exec_indexAfter {i : Instr} {s t : State} (h : exec i s = .next t) : t.i.toNat = indexAfter i s := by
  cases i with
  | ldI nnn => cases h; exact absolute_toNat nnn
  | addI x => cases h; exact BitVec.toNat_ofNat _ _
  | ldF x => cases h; exact glyphAddr_toNat s x
  | _ => exact congrArg BitVec.toNat (exec_index rfl h)

/-- Only the unmasked sum of Fx1E leaves 12 bits (R141). -/
theorem exec_index_large {i : Instr} {s t : State} (h : exec i s = .next t) (hl : 0xFFF < t.i.toNat) :
    t.i = s.i ∨ ∃ x, i = .addI x := by
  have hafter := exec_indexAfter h
  cases i with
  | addI x => exact .inr ⟨x, rfl⟩
  | ldI nnn => have := nnn.isLt; simp only [indexAfter] at hafter; omega
  | ldF x => simp only [indexAfter] at hafter; omega
  | _ => exact .inl (exec_index rfl h)

/-! ## Elements that an instruction passes by (R23, R31) -/

/-- The state with another I and another sound timer. -/
def mapIndexSound (f : Word → Word) (g : Byte → Byte) (s : State) : State :=
  { s with i := f s.i, soundTimer := g s.soundTimer }

/-- The instructions that read or write I (R23). -/
def usesIndex : Instr → Bool
  | .ldI _ | .addI _ | .ldF _ | .drw _ _ _ | .ldB _ | .ldMemFromRegs _ | .ldRegsFromMem _ => true
  | _ => false

section
variable (f : Word → Word) (g : Byte → Byte) {s t : State}

theorem skipIf_mapIndexSound (s : State) (c : Bool) :
    (mapIndexSound f g s).skipIf c = mapIndexSound f g (s.skipIf c) := by cases c <;> rfl

theorem execCall_mapIndexSound {nnn : Addr} (h : execCall nnn s = .next t) :
    execCall nnn (mapIndexSound f g s) = .next (mapIndexSound f g t) := by
  by_cases hsp : -1 ≤ s.sp ∧ s.sp ≤ 14
  · cases h.symm.trans (execCall_of_room nnn hsp); exact execCall_of_room (s := mapIndexSound f g s) nnn hsp
  · cases h.symm.trans (execCall_of_full nnn hsp); exact execCall_of_full (s := mapIndexSound f g s) nnn hsp

theorem execRet_mapIndexSound {x : Reg} (h : execRet x s = .next t) :
    execRet x (mapIndexSound f g s) = .next (mapIndexSound f g t) := by
  by_cases hsp : 0 ≤ s.sp ∧ s.sp ≤ 15
  · cases h.symm.trans (execRet_of_entry x hsp); exact execRet_of_entry (s := mapIndexSound f g s) x hsp
  · cases h.symm.trans (execRet_of_empty x hsp); exact execRet_of_empty (s := mapIndexSound f g s) x hsp

theorem execLdVxK_mapIndexSound {x : Reg} (h : execLdVxK x s = .next t) :
    execLdVxK x (mapIndexSound f g s) = .next (mapIndexSound f g t) := by
  cases hk : lowestPressed s with
  | none => cases h.symm.trans (execLdVxK_of_none x hk); exact execLdVxK_of_none (s := mapIndexSound f g s) x hk
  | some k => cases h.symm.trans (execLdVxK_of_pressed x hk); exact execLdVxK_of_pressed (s := mapIndexSound f g s) x hk

/-- A block store reads I, and passes the sound timer by. -/
theorem storeBlock_mapSound {xs : List Byte} (h : storeBlock s xs = .next t) :
    storeBlock (mapIndexSound id g s) xs = .next (mapIndexSound id g t) := by
  rcases storeBlock_cases s xs with ⟨hfont, hs⟩ | ⟨hfont, hs⟩
  · cases h.symm.trans hs; exact if_pos hfont
  · cases h.symm.trans hs; exact if_neg hfont

variable {f g}

/-- An instruction runs the same on another I, unless it uses I, and on another sound timer, unless it is Fx18. -/
theorem exec_mapIndexSound {i : Instr} (hf : usesIndex i = true → f = id) (hg : (∃ x, i = .ldStVx x) → g = id)
    (h : exec i s = .next t) : exec i (mapIndexSound f g s) = .next (mapIndexSound f g t) := by
  cases i with
  | ldStVx x => obtain rfl := hg ⟨x, rfl⟩; cases h; rfl
  | ldB | ldMemFromRegs => obtain rfl := hf rfl; exact storeBlock_mapSound g h
  | ldI | addI | ldF | drw | ldRegsFromMem => obtain rfl := hf rfl; cases h; rfl
  | seImm | sneImm | seReg | sneReg | skp | sknp => cases h; exact congrArg _ (skipIf_mapIndexSound f g s _)
  | call => exact execCall_mapIndexSound f g h
  | ret x => exact execRet_mapIndexSound f g (x := x) h
  | ldVxK => exact execLdVxK_mapIndexSound f g h
  | cls | jp | ldImm | addImm | ldReg | orReg | andReg | xorReg | addReg | sub | shr | subn | shl | jpV0 | rnd | ldVxDt
  | ldDtVx => cases h; rfl

end

theorem not_usesIndex {i : Instr} (hdrw : ∀ x y n, i ≠ .drw x y n)
    (hread : ∀ x, i ≠ .addI x ∧ i ≠ .ldB x ∧ i ≠ .ldMemFromRegs x ∧ i ≠ .ldRegsFromMem x) (hldI : ∀ nnn, i ≠ .ldI nnn)
    (hldF : ∀ x, i ≠ .ldF x) : usesIndex i = false := by
  cases i with
  | drw x y n => exact absurd rfl (hdrw x y n)
  | addI x | ldB x | ldMemFromRegs x | ldRegsFromMem x => simpa using hread x
  | ldI nnn => exact absurd rfl (hldI nnn)
  | ldF x => exact absurd rfl (hldF x)
  | _ => rfl

/-- Settles O14: the writers one by one, and what an instruction that passes I by answers on another I. -/
theorem indexIsWrittenOnlyByItsThree : Obligations.IndexIsWrittenOnlyByItsThree := by
  refine ⟨fun i s t h => ⟨exec_indexAfter h, exec_index_large h⟩, fun i s t a h hdrw hread => ⟨fun hldI hldF => ?_, ?_⟩,
    fun _ _ => rfl, fun _ => rfl⟩
  · have huses := not_usesIndex hdrw hread hldI hldF
    exact exec_mapIndexSound (f := fun _ => a) (fun hu => absurd (huses.symm.trans hu) nofun) (fun _ => rfl) h
  · rintro (⟨nnn, rfl⟩ | ⟨x, rfl⟩)
    · cases h; rfl
    · cases h; rfl

/-- Settles O16: Fx18 replaces the sound timer, and every other instruction passes it by. -/
theorem soundTimerIsNeverRead : Obligations.SoundTimerIsNeverRead := by
  refine fun i s t b h => ⟨fun hi => ?_, ?_⟩
  · exact exec_mapIndexSound (g := fun _ => b) (fun _ => rfl) (fun ⟨x, hx⟩ => absurd hx (hi x)) h
  · rintro ⟨x, rfl⟩; cases h; rfl

end Sys2Proof.Machine
end

section
/-! PROOFS. 70_reset_and_hazards.md: the runs that stay where they are, a waiting Fx0A (R163, U8) and a jump to itself
(D19). -/

namespace Sys2Proof.Machine

/-! ## Cycles that only prepare -/

/-- The cycle at this state, and at every one after it, does steps 3 and 4 and leaves everything else (R82, R83). -/
def Idles (s : State) : Prop := ∀ n, (prepared^[n] s).fault = none ∧ step (prepared^[n] s) = .next (prepared^[n + 1] s)

/-- What a cycle that only prepares keeps makes a state idle. -/
theorem idles_of_keeps {P : State → Prop} (hstep : ∀ s, P s → s.fault = none ∧ step s = .next (prepared s))
    (hkeep : ∀ s, P s → P (prepared s)) {s : State} (h : P s) : Idles s := by
  intro n
  have hn : P (prepared^[n] s) := Function.Iterate.rec P h hkeep n
  rw [Function.iterate_succ_apply']
  exact hstep _ hn

theorem Idles.next {s : State} (h : Idles s) : Idles (prepared s) := fun n => h (n + 1)

/-- A run from an idle state in which the host only reads takes all its cycles (R239). -/
theorem Idles.runWith_eq {s : State} (h : Idles s) {sched : Schedule} (hreads : OnlyReads sched) :
    runWith sched s = .next (prepared^[sched.length] s) := by
  induction sched generalizing s with
  | nil => obtain ⟨hf, -⟩ := h 0; exact runWith_nil hf
  | cons xs sched ih =>
    obtain ⟨hf, hstep⟩ : s.fault = none ∧ step s = .next (prepared s) := h 0
    have hgap : between xs s = .next s := between_readouts (hreads xs List.mem_cons_self) hf
    have hrest := ih h.next fun ys hys => hreads ys (List.mem_cons_of_mem _ hys)
    rw [runWith_cons, hgap, goOn_next_of_none hf, hstep, goOn_next_of_none ((prepared_fault s).trans hf), hrest]; rfl

theorem coreRun_succ {s t : State} (h : step s = .next t) (n : Nat) :
    Sys2Proof.core.run (n + 1) s = Sys2Proof.core.run n t := by
  have hstep : Sys2Proof.core.step s = .next t := h
  simp only [Host.Core.run, hstep]

/-- So does a run of steps alone. -/
theorem Idles.coreRun_eq {s : State} (h : Idles s) (n : Nat) : Sys2Proof.core.run n s = .next (prepared^[n] s) := by
  induction n generalizing s with
  | zero => rfl
  | succ n ih =>
    obtain ⟨-, hstep⟩ : s.fault = none ∧ step s = .next (prepared s) := h 0
    exact (coreRun_succ hstep n).trans (ih h.next)

/-! ## The state after it -/

theorem iterate_prepared_delay (n : Nat) (s : State) :
    (prepared^[n] s).delayTimer.toNat = s.delayTimer.toNat - n := by
  induction n with
  | zero => rfl
  | succ n ih => rw [Function.iterate_succ_apply', prepared_delayTimer, tick_toNat, ih]; omega

theorem iterate_prepared_sound (n : Nat) (s : State) :
    (prepared^[n] s).soundTimer.toNat = s.soundTimer.toNat - n := by
  induction n with
  | zero => rfl
  | succ n ih => rw [Function.iterate_succ_apply', prepared_soundTimer, tick_toNat, ih]; omega

/-- Only the timers and the redraw latch move. -/
theorem iterate_prepared_eq (n : Nat) (s : State) : prepared^[n] s = { s with
    delayTimer := (prepared^[n] s).delayTimer, soundTimer := (prepared^[n] s).soundTimer,
    redraw := if n = 0 then s.redraw else false } := by
  induction n with
  | zero => rfl
  | succ n ih =>
    rw [Function.iterate_succ_apply', if_neg n.succ_ne_zero]
    conv_lhs => rw [ih]
    rfl

/-- What a schedule of readouts observes from an idle state. -/
theorem Idles.observed {s : State} (h : Idles s) {sched : Schedule} (hreads : OnlyReads sched) :
    ∃ t, SafeRun sched s t ∧ Sys2Proof.core.run sched.length s = .next t ∧
      t.delayTimer.toNat = s.delayTimer.toNat - sched.length ∧ t.soundTimer.toNat = s.soundTimer.toNat - sched.length ∧
      t = { s with
        delayTimer := t.delayTimer, soundTimer := t.soundTimer,
        redraw := if sched.length = 0 then s.redraw else false } :=
  ⟨_, h.runWith_eq hreads, h.coreRun_eq _, iterate_prepared_delay _ s, iterate_prepared_sound _ s,
    iterate_prepared_eq _ s⟩

/-! ## A jump to itself -/

/-- The cycle of this state is admitted and runs this instruction. -/
def Runs (i : Instr) (s : State) : Prop := Admitted s ∧ s.pc.toNat % 2 = 0 ∧ decodeWord (wordAtPc s) = .ok i

theorem Runs.step_eq {i : Instr} {s : State} (h : Runs i s) : step s = exec i (advancePc (prepared s)) := by
  obtain ⟨ha, he, hd⟩ := h
  exact step_of_decoded ha he hd

theorem Runs.noFault {i : Instr} {s : State} (h : Runs i s) : s.fault = none := by
  obtain ⟨⟨hf, -⟩, -⟩ := h; exact hf

/-- Steps 3 and 4 change nothing that decides what the next cycle runs. -/
theorem Runs.keep {i : Instr} {s : State} (h : Runs i s) : Runs i (prepared s) := h

theorem idles_of_jump {nnn : Addr} {s : State} (h : Runs (.jp nnn) s) (hself : nnn.toNat = s.pc.toNat) : Idles s := by
  refine idles_of_keeps (P := fun s => Runs (.jp nnn) s ∧ nnn.toNat = s.pc.toNat) ?_
    (fun s ⟨hr, hp⟩ => ⟨hr.keep, hp⟩) ⟨h, hself⟩
  intro s ⟨hr, hp⟩
  have hf := hr.noFault
  have hback : absolute nnn = s.pc := BitVec.eq_of_toNat_eq ((absolute_toNat nnn).trans hp)
  refine ⟨hf, hr.step_eq.trans ?_⟩
  show Host.Outcome.next ((advancePc (prepared s)).setPc (absolute nnn)) = _
  rw [hback]; rfl

/-- Settles O60: the jump writes the pc it was fetched from. -/
theorem jumpToItselfHolds : Obligations.JumpToItselfHolds :=
  fun _ _ _ ha he hd hself hreads => (idles_of_jump ⟨ha, he, hd⟩ hself).observed hreads

/-! ## A waiting Fx0A -/

theorem idles_of_wait {x : Reg} {s : State} (h : Runs (.ldVxK x) s) (hnone : ∀ k : Key, s.keys[k] = false) :
    Idles s := by
  refine idles_of_keeps (P := fun s => Runs (.ldVxK x) s ∧ ∀ k : Key, s.keys[k] = false) ?_
    (fun s ⟨hr, hk⟩ => ⟨hr.keep, hk⟩) ⟨h, hnone⟩
  intro s ⟨hr, hk⟩
  have hf := hr.noFault
  have hback : s.pc + 2 - 2 = s.pc := BitVec.add_sub_cancel s.pc 2
  refine ⟨hf, hr.step_eq.trans ?_⟩
  refine (execLdVxK_of_none (s := advancePc (prepared s)) x ((lowestPressed_none_iff s).2 hk)).trans ?_
  rw [advancePc_pc, prepared_pc, hback]; rfl

theorem Runs.iterate {i : Instr} {s : State} (h : Runs i s) (n : Nat) : Runs i (prepared^[n] s) :=
  Function.Iterate.rec (Runs i) h (fun _ => Runs.keep) n

/-- A key pressed before a cycle that waits for one is taken in it, and that cycle ticks the timers as any other. -/
theorem wait_takes {x : Reg} {s : State} (h : Runs (.ldVxK x) s) (hnone : ∀ j : Key, s.keys[j] = false) (k : Key) :
    ∃ t, runWith [[.setKey k true]] s = .next t ∧ (t.reg x).toNat = k.val ∧ t.pc = s.pc + 2 ∧ t.keys[k] = true ∧
      t.delayTimer.toNat = s.delayTimer.toNat - 1 := by
  have hruns : Runs (.ldVxK x) (setKey k true s) := h
  have hf := h.noFault
  have hpressed : (setKey k true s).keys[k] = true := by rw [setKey_keys, if_pos rfl]
  have hlowest : lowestPressed (setKey k true s) = some k :=
    lowestPressed_eq_some hpressed fun j hj => by rw [setKey_keys, if_neg hj.ne, hnone]
  have hstep := hruns.step_eq.trans (execLdVxK_of_pressed (s := advancePc (prepared (setKey k true s))) x hlowest)
  have hf' : (setKey k true s).fault = none := hf
  have hgap : between [.setKey k true] s = .next (setKey k true s) :=
    (between_cons hf (.setKey k true) []).trans (between_nil hf')
  refine ⟨(advancePc (prepared (setKey k true s))).setReg x (BitVec.ofNat 8 k.val), ?_, ?_, rfl, hpressed, tick_toNat _⟩
  · have hf'' (b : Byte) : ((advancePc (prepared (setKey k true s))).setReg x b).fault = none := hf
    rw [runWith_cons, hgap, goOn_next_of_none hf', hstep, goOn_next_of_none (hf'' _), runWith_nil (hf'' _)]
  · rw [State.reg_setReg_same]; exact ofNat_toNat_of_lt (by omega)

/-- Settles O59: the wait idles, and the run with the key pressed is the wait followed by the cycle that takes it. -/
theorem keyWaitCompletesEveryCycle : Obligations.KeyWaitCompletesEveryCycle := by
  intro sched x s ha he hd hnone hreads
  have hruns : Runs (.ldVxK x) s := ⟨ha, he, hd⟩
  have hidles := idles_of_wait hruns hnone
  refine ⟨hidles.observed hreads, fun k => ?_⟩
  obtain ⟨hf, -⟩ := hidles sched.length
  have heq := iterate_prepared_eq sched.length s
  have hkeys : (prepared^[sched.length] s).keys = s.keys := (congrArg State.keys heq :)
  have hpc : (prepared^[sched.length] s).pc = s.pc := (congrArg State.pc heq :)
  obtain ⟨t, ht, hreg, hpc', hkey, hdelay⟩ := wait_takes (hruns.iterate sched.length) (hkeys ▸ hnone) k
  refine ⟨t, ?_, hreg, by rw [hpc', hpc], hkey, ?_⟩
  · rw [SafeRun, runWith_append, hidles.runWith_eq hreads, goOn_next_of_none hf]; exact ht
  · rw [hdelay, iterate_prepared_delay, Nat.sub_sub]

end Sys2Proof.Machine
end
